-- ==== Sys2Proof/Word.lean ====
section
/-! DEFINITION. The words of the block: bytes, command words and response words (R8, R90, R101), and
the lists with a key that hold its sparse data in one canonical form. -/

namespace Sys2Proof

/-- One byte: a window register, a line level, a port image (R8, R69). -/
abbrev Byte := BitVec 8

/-- A command word, bit 23 the most significant (R90). -/
abbrev CmdWord := BitVec 24

/-- A response word (R101). -/
abbrev RspWord := BitVec 16

/-- An event slot's contents, `EVW = 6` bits (R6, R36). -/
abbrev EventNo := BitVec 6

end Sys2Proof
end

