-- ==== Sys2Proof/Syntax.lean ====
section
/-! DEFINITION. The 14 commands of the block (R96), one constructor per row of spec/opcode_table.json,
with the operands the command's format uses (R91).  `chip` and `index` are numbers the command names
a slot, a port offset or a bit by (R93, R94); `data` is a byte (R95). -/

namespace Sys2Proof

/-- A command (R96). -/
inductive Instr where
  | readPort (chip index : Nat)
  | writePort (chip index : Nat) (data : Byte)
  | readBit (chip index : Nat)
  | writeBit (chip index : Nat) (data : Byte)
  | setBit (chip index : Nat)
  | clrBit (chip index : Nat)
  | enableInt (chip index : Nat) (data : Byte)
  | disableInt (chip index : Nat)
  | clearInt (chip index : Nat)
  | getInt (chip : Nat)
  | waitInt (chip : Nat)
  | clearIntId (chip index : Nat)
  | lockPort (chip index : Nat)
  | unlockPort (chip index : Nat)
  deriving DecidableEq, Repr

end Sys2Proof
end

