-- ==== Sys2Proof/WellFormed.lean ====
section
/-! DEFINITION. The operands of a command as fields, and when they fit the command word's fields (R90,
R92).  A well-formed command can still answer UNAVAILABLE or INDEX_FAULT (R99). -/

namespace Sys2Proof

/-- The `chip` field (R93). -/
def Instr.chipField : Instr → Nat
  | .readPort c _ => c
  | .writePort c _ _ => c
  | .readBit c _ => c
  | .writeBit c _ _ => c
  | .setBit c _ => c
  | .clrBit c _ => c
  | .enableInt c _ _ => c
  | .disableInt c _ => c
  | .clearInt c _ => c
  | .getInt c => c
  | .waitInt c => c
  | .clearIntId c _ => c
  | .lockPort c _ => c
  | .unlockPort c _ => c

/-- The `index` field (R94); a format that does not use it has 0 there (R91). -/
def Instr.indexField : Instr → Nat
  | .readPort _ i => i
  | .writePort _ i _ => i
  | .readBit _ i => i
  | .writeBit _ i _ => i
  | .setBit _ i => i
  | .clrBit _ i => i
  | .enableInt _ i _ => i
  | .disableInt _ i => i
  | .clearInt _ i => i
  | .getInt _ => 0
  | .waitInt _ => 0
  | .clearIntId _ i => i
  | .lockPort _ i => i
  | .unlockPort _ i => i

/-- The `data` field (R95); a format that does not use it has 0 there (R91). -/
def Instr.dataField : Instr → Byte
  | .readPort _ _ => 0
  | .writePort _ _ v => v
  | .readBit _ _ => 0
  | .writeBit _ _ v => v
  | .setBit _ _ => 0
  | .clrBit _ _ => 0
  | .enableInt _ _ v => v
  | .disableInt _ _ => 0
  | .clearInt _ _ => 0
  | .getInt _ => 0
  | .waitInt _ => 0
  | .clearIntId _ _ => 0
  | .lockPort _ _ => 0
  | .unlockPort _ _ => 0

/-- The `chip` operand fits its 3 bits and the `index` operand its 6 (R90, R92). -/
abbrev WellFormed (i : Instr) : Prop := i.chipField < 8 ∧ i.indexField < 64

end Sys2Proof
end

