-- ==== Sys2Proof/Decode.lean ====
section
/-! DEFINITION. The command word: decoder (R92, R98 to R100), encoder (R92), and the opcode table's
match and mask pairs (R91, R96).  The spec does not serialise words into bytes (R67), so a command
word is one 24-bit value: log entry 16. -/

namespace Sys2Proof

/-- Why a word decodes to no command (R98, R99).  All of them answer ILLEGAL (R251). -/
inductive Illegal where
  /-- opcode 0 or 15 (R98) -/
  | reservedOpcode
  /-- `rsv1` or `rsv2` is not zero (R99) -/
  | reservedBits
  /-- a field the format does not use is not zero (R99) -/
  | unusedField
  deriving DecidableEq, Repr

/-- `w[23:20]` (R92). -/
def opcodeOf (w : CmdWord) : Nat := (w.extractLsb' 20 4).toNat

/-- `w[18:16]` (R92). -/
def chipOf (w : CmdWord) : Nat := (w.extractLsb' 16 3).toNat

/-- `w[13:8]` (R92). -/
def indexOf (w : CmdWord) : Nat := (w.extractLsb' 8 6).toNat

/-- `w[7:0]` (R92). -/
def dataOf (w : CmdWord) : Byte := w.extractLsb' 0 8

/-- `rsv1`, bit 19, and `rsv2`, bits 15:14, are zero (R90). -/
def reservedZero (w : CmdWord) : Bool := w.extractLsb' 19 1 == 0 && w.extractLsb' 14 2 == 0

/-- Formats PD and BD: `index` and `data` are used (R91). -/
def formatIndexData (w : CmdWord) (mk : Nat → Nat → Byte → Instr) : Except Illegal Instr :=
  if reservedZero w then .ok (mk (chipOf w) (indexOf w) (dataOf w)) else .error .reservedBits

/-- Formats P and B: `index` is used, `data` must be zero (R91, R99). -/
def formatIndex (w : CmdWord) (mk : Nat → Nat → Instr) : Except Illegal Instr :=
  if reservedZero w then
    if dataOf w = 0 then .ok (mk (chipOf w) (indexOf w)) else .error .unusedField
  else .error .reservedBits

/-- Format C: `index` and `data` must be zero (R91, R99). -/
def formatChip (w : CmdWord) (mk : Nat → Instr) : Except Illegal Instr :=
  if reservedZero w then
    if indexOf w = 0 ∧ dataOf w = 0 then .ok (mk (chipOf w)) else .error .unusedField
  else .error .reservedBits

/-- Decoding is total: ILLEGAL, with its reason, or one command (R100). -/
def decode (w : CmdWord) : Except Illegal Instr :=
  match opcodeOf w with
  | 1 => formatIndex w .readPort
  | 2 => formatIndexData w .writePort
  | 3 => formatIndex w .readBit
  | 4 => formatIndexData w .writeBit
  | 5 => formatIndex w .setBit
  | 6 => formatIndex w .clrBit
  | 7 => formatIndexData w .enableInt
  | 8 => formatIndex w .disableInt
  | 9 => formatIndex w .clearInt
  | 10 => formatChip w .getInt
  | 11 => formatChip w .waitInt
  | 12 => formatIndex w .clearIntId
  | 13 => formatIndex w .lockPort
  | 14 => formatIndex w .unlockPort
  | _ => .error .reservedOpcode

/-- A word whose bits are `w`, numbered as the opcode table numbers them; the bits above `nbits` are
zero, and a number that does not fit 24 bits is no command word. -/
def tableWord (nbits w : Nat) : Option CmdWord :=
  if w % 2 ^ nbits < 2 ^ 24 then some (BitVec.ofNat 24 (w % 2 ^ nbits)) else none

/-- What the decoder reads from the table's word (log entry 16). -/
def decodeTableWord (nbits w : Nat) : Option Instr :=
  match tableWord nbits w with
  | none => none
  | some v => (decode v).toOption

/-- The opcode of each command (R96). -/
def opcode : Instr → Nat
  | .readPort _ _ => 1
  | .writePort _ _ _ => 2
  | .readBit _ _ => 3
  | .writeBit _ _ _ => 4
  | .setBit _ _ => 5
  | .clrBit _ _ => 6
  | .enableInt _ _ _ => 7
  | .disableInt _ _ => 8
  | .clearInt _ _ => 9
  | .getInt _ => 10
  | .waitInt _ => 11
  | .clearIntId _ _ => 12
  | .lockPort _ _ => 13
  | .unlockPort _ _ => 14

/-- `encode(opcode, chip, index, data)` (R92): the fields do not overlap, so the or of R92 is a sum. -/
def encode (i : Instr) : CmdWord :=
  BitVec.ofNat 24
    (opcode i * 0x100000 + i.chipField * 0x10000 + i.indexField * 0x100 + i.dataField.toNat)

/-- One row of the opcode map (R96). -/
structure Row where
  matchWord : CmdWord
  maskWord : CmdWord
  deriving DecidableEq, Repr

/-- The match and mask columns of R96, in its order. -/
def opcodeMap : List Row :=
  [⟨0x100000, 0xF8C0FF⟩, ⟨0x200000, 0xF8C000⟩, ⟨0x300000, 0xF8C0FF⟩, ⟨0x400000, 0xF8C000⟩,
   ⟨0x500000, 0xF8C0FF⟩, ⟨0x600000, 0xF8C0FF⟩, ⟨0x700000, 0xF8C000⟩, ⟨0x800000, 0xF8C0FF⟩,
   ⟨0x900000, 0xF8C0FF⟩, ⟨0xA00000, 0xF8FFFF⟩, ⟨0xB00000, 0xF8FFFF⟩, ⟨0xC00000, 0xF8C0FF⟩,
   ⟨0xD00000, 0xF8C0FF⟩, ⟨0xE00000, 0xF8C0FF⟩]

/-- `w & mask == match` (R91, R99). -/
def Row.selects (r : Row) (w : CmdWord) : Bool := w &&& r.maskWord == r.matchWord

/-- A word is legal exactly when it matches a row of the map (R99). -/
def legalWord (w : CmdWord) : Bool := opcodeMap.any (·.selects w)

end Sys2Proof
end

