-- ==== Sys2Proof/Config.lean ====
section
/-! DEFINITION. What the platform fixes before the first command (R7), the parameters the spec decided
(R6), what can move the machine (R267, R273), and the free values: opaque constants with no body,
so that no proof can see what they are. -/

namespace Sys2Proof.Config

/-- The configuration of one chip slot (R7). -/
structure Slot where
  base : BitVec 16
  irq : Option Nat
  claimOk : Bool
  deriving DecidableEq, Repr

/-- A slot with base address 0 is treated as absent (R7). -/
def Slot.absent : Slot := { base := 0, irq := none, claimOk := false }

/-- The board: slots 1 to 4, in that order (R7; numbered from 1 by R93). -/
abbrev Board := Vector Slot 4

/-- The spec's own configuration CFG-A (95_test_vectors.md): chip 1 present and IRQ-driven, slots 2
to 4 absent.  DESIGN CHOICE that `State.reset` has it, unsafe: log entry 3. -/
def boardA : Board :=
  #v[{ base := 0x0200, irq := some 1, claimOk := true }, Slot.absent, Slot.absent, Slot.absent]

/-- The spec's configuration CFG-B: as CFG-A with no interrupt line, so chip 1 is polled. -/
def boardB : Board :=
  #v[{ base := 0x0200, irq := none, claimOk := true }, Slot.absent, Slot.absent, Slot.absent]

/-- `LOCK_ENFORCED` (R6, R29, R243): a write to a locked data port is ignored.  The spec's decision
D10, kept as a parameter (U6): log entry 7. -/
def lockEnforced : Bool := true

/-- `IDLE` (R6, R126): the page every page-locked operation leaves selected.  The spec's decision D7,
kept as a parameter (U8): log entry 7. -/
def idlePage : BitVec 2 := 0

/-- What can move the machine (R11, R267, R273).  `command` is the one move of several atomic steps:
consumer `k` issues a word and then takes its own steps until it answers or must wait (log entry 1);
every other move is one atomic step of one agent. -/
inductive Event where
  /-- consumer `k` issues the word and goes on alone to its response or its first wait -/
  | command (k : Nat) (w : CmdWord)
  /-- consumer `k` issues the word: the issue step of R255 alone -/
  | issue (k : Nat) (w : CmdWord)
  /-- the next step of the command consumer `k` has in flight -/
  | consumer (k : Nat)
  /-- the next step of `ISS[c]` (R215) -/
  | iss (c : Nat)
  /-- `EnvSet(c, p, v)` (R172) -/
  | envSet (c p : Nat) (v : Byte)
  /-- `EnvWake(c)` (R216) -/
  | envWake (c : Nat)
  /-- reset (R290) -/
  | reset
  deriving DecidableEq, Repr, Inhabited

/-- FREE VALUE: which move comes next where none is planned: the choice among enabled agents is free
(R52, R76, U9).  The argument is a counter, so that each choice is a fresh one: log entry 2. -/
opaque nextEvent : Nat → Event

/-- FREE VALUE: `draw(5)`, bits 7:3 of a read of offset 6 (R33, R120, U2), by chip slot and draw
number: log entry 6. -/
opaque pendingHigh : Nat → Nat → BitVec 5

/-- FREE VALUE: `draw(8)`, a read of offset 8, 9 or 10 while page 0 is selected (R65, R120, U3), by
chip slot and draw number: log entry 6. -/
opaque unmapped : Nat → Nat → Byte

/-- FREE VALUE: an event slot that nothing has written (R36, U4), by chip slot and draw number: log
entry 5. -/
opaque unwritten : Nat → Nat → EventNo

end Sys2Proof.Config
end

