-- ==== Sys2Proof/Machine/State.lean ====
section
/-! DEFINITION. The state of the block as plain data (R20, R50, R51), the reasons to stop, and the state
after reset (R56, R290).  Nothing is computed here: every operation stands in Machine/Ops.lean and the
files after it. -/

namespace Sys2Proof.Machine

/-- What can hold a lock (R40): a consumer's command, or the chip's own interrupt service sequencer. -/
inductive Holder where
  | consumer (k : Nat)
  | iss
  deriving DecidableEq, Repr

/-- The temporaries of an in-flight record (R50): `t` the last bus read, `s` the masked pending
summary, `r` a bit number or 0, `n` a merged byte.  A temporary no step has written yet is never read
(R50); DESIGN CHOICE that it starts at 0: log entry 11. -/
structure Temps where
  t : Byte := 0
  s : BitVec 3 := 0
  r : EventNo := 0
  n : Byte := 0
  deriving DecidableEq, Repr

/-- The in-flight record of a consumer (R50): the command word, the number of the next step of its
command's micro-program, the temporaries. -/
structure InFlight where
  word : CmdWord
  upc : BitVec 6
  tmp : Temps
  deriving DecidableEq, Repr

/-- `ISS[c]` (R51): `upc` 0 means idle.  The sequencer has no `n`; that field of its temporaries is
never written or read. -/
structure Iss where
  upc : BitVec 6
  tmp : Temps
  deriving DecidableEq, Repr

/-- The event buffer, the block's only memory of many cells (R36, R60): (slot, event) pairs, slots
strictly rising.  A slot that is not listed has not been written since reset: log entry 5. -/
abbrev Memory := List (Nat × EventNo)

/-- The canonical form: slots strictly rising, and below 1024 (R36). -/
abbrev Memory.wf (m : Memory) : Prop := (m.map Prod.fst).Pairwise (· < ·) ∧ ∀ e ∈ m, e.1 < 1024

/-- The state of one chip slot (R20), its external inputs (R24), and the model's own draw counter. -/
structure Chip where
  /-- `OUT[c][0..5]` (R21) -/
  out : Vector Byte 6
  /-- `IMG[c][0..5]` (R22) -/
  img : Vector Byte 6
  /-- `PAGE[c]` (R28) -/
  page : BitVec 2
  /-- `LOCK[c]` (R29) -/
  lock : BitVec 6
  /-- `POL[c][0..2]` (R30) -/
  pol : Vector Byte 3
  /-- `ENAB[c][0..2]` (R31) -/
  enab : Vector Byte 3
  /-- `INT_ID[c][0..2]` (R32) -/
  intId : Vector Byte 3
  /-- `BUF[c]` (R36) -/
  buf : Memory
  /-- `QIN[c]` (R37) -/
  qin : BitVec 10
  /-- `QOUT[c]` (R37) -/
  qout : BitVec 10
  /-- `QCNT[c]` (R38) -/
  qcnt : BitVec 11
  /-- `WLOCK[c]` (R40) -/
  wlock : Option Holder
  /-- `QLOCK[c]` (R40) -/
  qlock : Option Holder
  /-- `WAITERS[c]` (R42): consumers, rising, none twice -/
  waiters : List Nat
  /-- `WOKEN[c]` (R42): consumers, rising, none twice -/
  woken : List Nat
  /-- `ISS[c]` (R51) -/
  iss : Iss
  /-- `EXT[c][0..5]`, the environment's inputs (R24) -/
  ext : Vector Byte 6
  /-- how many free values reads of this chip have drawn: the model's own (log entry 6) -/
  draws : Nat
  deriving DecidableEq, Repr

/-- A delivered response (R101, R268). -/
structure Response where
  consumer : Nat
  word : RspWord
  deriving DecidableEq, Repr

/-- The state of the machine. -/
structure State where
  /-- the configuration, constant (R7) -/
  cfg : Config.Board
  /-- slots 1 to 4, in that order (R20); the record of an absent slot is never used (log entry 15) -/
  chips : Vector Chip 4
  /-- the commands in flight, by consumer, consumers strictly rising (R50) -/
  inflight : List (Nat × InFlight)
  /-- the responses delivered so far, oldest first (log entry 13) -/
  responses : List Response
  /-- the moves still planned, next one first (log entry 2) -/
  agenda : List Config.Event
  /-- the consumer at whose command port the command being executed stands (log entry 1) -/
  cur : Nat
  /-- how many moves were chosen freely: the model's own (log entry 2) -/
  clock : Nat
  deriving DecidableEq, Repr

/-- Why a step can stop with a fault.  No step of the block does (R256, R259). -/
inductive Fault where
  /-- Raised by `memRead` and `memWrite` (the notation MemRead / MemWrite of R10) at a host address
  that lies in the window of no present chip (R61, R62); no step uses them.  Safe. -/
  | noWindowRegister
  deriving DecidableEq, Repr

/-- Why the model refuses a step: cases in which the spec says that no step exists. -/
inductive Refusal where
  /-- Raised by an arm of `exec` that has no meaning yet.  Safe.  No arm does. -/
  | notModelled (mnemonic : String)
  /-- Raised by `step`: the configuration breaks R61, and no behaviour is defined for it.  Safe. -/
  | badConfiguration
  /-- Raised by issuing a command for a consumer that has one in flight: a consumer has at most one
  (R50, R255, D1).  Safe. -/
  | consumerBusy
  /-- Raised by reset while the block is not quiescent: no step exists (R290, U13).  Safe. -/
  | resetNotQuiescent
  /-- Raised by `EnvSet` and `EnvWake` naming an absent chip or a port above 5: no such input (R24,
  R172, R216).  Safe. -/
  | noSuchLine
  deriving DecidableEq, Repr

/-- One chip in the reset state of R56, its external inputs as given and its draw counter as it is. -/
def Chip.resetWith (ext : Vector Byte 6) (draws : Nat) : Chip where
  out := Vector.replicate 6 0
  img := Vector.replicate 6 0
  page := 0
  lock := 0
  pol := Vector.replicate 3 0
  enab := Vector.replicate 3 0
  intId := Vector.replicate 3 0
  buf := []
  qin := 0
  qout := 0
  qcnt := 0
  wlock := none
  qlock := none
  waiters := []
  woken := []
  iss := { upc := 0, tmp := {} }
  ext := ext
  draws := draws

/-- The machine right after the first reset (R290, R56), for any configuration and any external
levels: both are fixed from outside (R292). -/
def State.resetFrom (cfg : Config.Board) (ext : Vector (Vector Byte 6) 4) : State where
  cfg := cfg
  chips := #v[Chip.resetWith ext[0] 0, Chip.resetWith ext[1] 0, Chip.resetWith ext[2] 0,
    Chip.resetWith ext[3] 0]
  inflight := []
  responses := []
  agenda := []
  cur := 0
  clock := 0

/-- The machine right after reset in the spec's configuration CFG-A, no line asserted from outside
(DESIGN CHOICE, log entries 3 and 4: the configuration is the platform's, the levels are the
environment's). -/
def State.reset : State :=
  State.resetFrom Config.boardA (Vector.replicate 4 (Vector.replicate 6 0))

end Sys2Proof.Machine
end

