-- ==== Sys2Proof/Machine/Store.lean ====
section
/-! DEFINITION. How the state's containers are read and written: banks of registers by number, sparse
lists by key in canonical form, sets of consumers, the event buffer.  Total: a number of no register
reads as the value given for it and writing it changes nothing. -/

namespace Sys2Proof.Machine

/-- Register `i` of a bank, or `d` where the bank has no register `i`. -/
def bankRead {α : Type} {n : Nat} (v : Vector α n) (i : Nat) (d : α) : α := v[i]?.getD d

/-- The bank with register `i` replaced; nothing where the bank has no register `i`. -/
def bankWrite {α : Type} {n : Nat} (v : Vector α n) (i : Nat) (x : α) : Vector α n :=
  v.setIfInBounds i x

/-- What is listed under a key. -/
def cellsLookup {α : Type} (k : Nat) : List (Nat × α) → Option α
  | [] => none
  | (j, y) :: rest => if j = k then some y else cellsLookup k rest

/-- The list with `x` under key `k`, keys still rising. -/
def cellsStore {α : Type} (k : Nat) (x : α) : List (Nat × α) → List (Nat × α)
  | [] => [(k, x)]
  | (j, y) :: rest =>
    if k < j then (k, x) :: (j, y) :: rest
    else if k = j then (k, x) :: rest
    else (j, y) :: cellsStore k x rest

/-- The list with nothing under key `k`. -/
def cellsRemove {α : Type} (k : Nat) (l : List (Nat × α)) : List (Nat × α) :=
  l.filter fun e => e.1 != k

/-- The keys are strictly rising, so equal contents are equal lists. -/
abbrev cellsWf {α : Type} (l : List (Nat × α)) : Prop := (l.map Prod.fst).Pairwise (· < ·)

/-- The set with `k` added, still rising. -/
def idsInsert (k : Nat) : List Nat → List Nat
  | [] => [k]
  | j :: rest => if k < j then k :: j :: rest else if k = j then j :: rest else j :: idsInsert k rest

/-- The set without `k`. -/
def idsRemove (k : Nat) (l : List Nat) : List Nat := l.filter fun j => j != k

/-- Slot `a` of the event buffer; none where nothing has written it since reset (R36). -/
def memRead? (m : Memory) (a : Nat) : Option EventNo := cellsLookup a m

/-- The event buffer with slot `a` written (R36). -/
def memStore (m : Memory) (a : Nat) (e : EventNo) : Memory := cellsStore a e m

end Sys2Proof.Machine
end

