-- ==== Sys2Proof/Machine/Operands.lean ====
section
/-! DEFINITION. Operand forms: bit numbers, port offsets, truth values of `data`, the valid range of
each command's `index`, and what the configuration says of a slot (R7 to R9, R93 to R95, R150, R157,
R171, R253). -/

namespace Sys2Proof.Machine

/-- `port(b) = (b-1)/8` (R9). -/
def portOf (b : Nat) : Nat := (b - 1) / 8

/-- `pos(b) = (b-1)%8` (R9). -/
def posOf (b : Nat) : Nat := (b - 1) % 8

/-- `mask(b) = 1 << pos(b)` (R9). -/
def maskOf (b : Nat) : Byte := 1#8 <<< posOf b

/-- `bitno(p, j) = p*8 + j + 1` (R9). -/
def bitNo (p j : Nat) : Nat := p * 8 + j + 1

/-- `lsb(v)`: the least set bit of a non-zero byte (R8). -/
def lsb (v : Byte) : Nat :=
  if v.getLsbD 0 then 0
  else if v.getLsbD 1 then 1
  else if v.getLsbD 2 then 2
  else if v.getLsbD 3 then 3
  else if v.getLsbD 4 then 4
  else if v.getLsbD 5 then 5
  else if v.getLsbD 6 then 6
  else 7

/-- `val = (data != 0)`, `pol = (data != 0)` (R95, D27). -/
def truthOf (data : Byte) : Bool := data != 0

/-- The byte with the bits of the mask set or cleared (R152, R178). -/
def mergeMask (on : Bool) (v m : Byte) : Byte := if on then v ||| m else v &&& ~~~m

/-- The valid `index` of each command (R94, R253). -/
def indexOk : Instr → Bool
  | .readPort _ i => i ≤ 7
  | .writePort _ i _ => i ≤ 7
  | .readBit _ i => 1 ≤ i && i ≤ 48
  | .writeBit _ i _ => 1 ≤ i && i ≤ 48
  | .setBit _ i => 1 ≤ i && i ≤ 48
  | .clrBit _ i => 1 ≤ i && i ≤ 48
  | .enableInt _ i _ => 1 ≤ i && i ≤ 24
  | .disableInt _ i => 1 ≤ i && i ≤ 24
  | .clearInt _ i => 1 ≤ i && i ≤ 24
  | .getInt _ => true
  | .waitInt _ => true
  | .clearIntId _ i => i ≤ 2
  | .lockPort _ i => i ≤ 5
  | .unlockPort _ i => i ≤ 5

/-- Where slot `c`, numbered from 1 (R93), stands in the board's four; 4, which is no place, for a
number of no slot. -/
def slotIx (c : Nat) : Nat := if c = 0 then 4 else c - 1

/-- The configuration of slot `c`; absent for a number of no slot (R93, R252). -/
def slotOf (cfg : Config.Board) (c : Nat) : Config.Slot := bankRead cfg (slotIx c) Config.Slot.absent

/-- `present[s] = (base[s] != 0) and claim_ok[s]` (R7). -/
def presentIn (cfg : Config.Board) (c : Nat) : Bool :=
  (slotOf cfg c).base != 0 && (slotOf cfg c).claimOk

/-- `irq_mode[s] = present[s] and irq[s] is given` (R7). -/
def irqModeIn (cfg : Config.Board) (c : Nat) : Bool :=
  presentIn cfg c && (slotOf cfg c).irq.isSome

/-- The four slot numbers (R93). -/
def slotNumbers : List Nat := [1, 2, 3, 4]

/-- The windows of two slots overlap (R61). -/
def overlap (cfg : Config.Board) (c d : Nat) : Bool :=
  (slotOf cfg c).base.toNat < (slotOf cfg d).base.toNat + 11 &&
    (slotOf cfg d).base.toNat < (slotOf cfg c).base.toNat + 11

/-- A configuration the spec defines behaviour for (R61): every present chip's window ends at 0xFFFF
or before, and no two present chips' windows overlap. -/
def legalBoard (cfg : Config.Board) : Bool :=
  slotNumbers.all fun c =>
    !presentIn cfg c ||
      ((slotOf cfg c).base.toNat + 10 ≤ 0xFFFF &&
        slotNumbers.all fun d => c == d || !presentIn cfg d || !overlap cfg c d)

/-- The slot and window offset a host I/O address names: the present chip `c` with
`base[c] <= addr <= base[c] + 10` (R10, R61). -/
def windowOf (cfg : Config.Board) (addr : BitVec 16) : Option (Nat × Nat) :=
  (slotNumbers.find? fun c =>
      presentIn cfg c && (slotOf cfg c).base.toNat ≤ addr.toNat &&
        addr.toNat ≤ (slotOf cfg c).base.toNat + 10).map
    fun c => (c, addr.toNat - (slotOf cfg c).base.toNat)

end Sys2Proof.Machine
end

