-- ==== Sys2Proof/Machine/Flags.lean ====
section
/-! DEFINITION. Everything derived: line levels, the pending summary, the interrupt request, the per-bit
interrupt state, the queue's flags, and which latches an edge sets (R26, R33 to R35, R38, R53, R173). -/

namespace Sys2Proof.Machine

/-- `LINE[c][p] = OUT[c][p] | EXT[c][p]` (R26). -/
def line (ch : Chip) (p : Nat) : Byte := bankRead ch.out p 0 ||| bankRead ch.ext p 0

/-- `PEND[c][i] = (INT_ID[c][i] != 0)` (R33). -/
def pendBit (ch : Chip) (i : Nat) : Bool := bankRead ch.intId i 0 != 0

/-- `PEND[c]`, bit `i` for port `i` (R33). -/
def pend (ch : Chip) : BitVec 3 :=
  BitVec.ofBool (pendBit ch 2) ++ BitVec.ofBool (pendBit ch 1) ++ BitVec.ofBool (pendBit ch 0)

/-- `IRQ[c] = (PEND[c] != 0)`, a level (R34). -/
def irq (ch : Chip) : Bool := pend ch != 0

/-- The queue is empty exactly when `QCNT == 0` (R38). -/
def queueEmpty (ch : Chip) : Bool := ch.qcnt == 0

/-- The queue is full exactly when `QCNT == 1024` (R38). -/
def queueFull (ch : Chip) : Bool := ch.qcnt == 1024

/-- Port `p` is write-protected: its lock bit is set and locks are enforced (R29, R66, U6). -/
def portLocked (ch : Chip) (p : Nat) : Bool := Config.lockEnforced && ch.lock.getLsbD p

/-- The latches that a change of a port's lines from `old` to `new` sets: enabled bits whose line made
the edge their polarity bit selects (R173). -/
def edges (enab pol old new : Byte) : Byte :=
  enab &&& ((pol &&& (~~~old &&& new)) ||| (~~~pol &&& (old &&& ~~~new)))

/-- The interrupt state of one I/O bit (R35). -/
inductive BitState where
  | disabled
  | armed (rising : Bool)
  | pending (rising : Bool)
  deriving DecidableEq, Repr

/-- The interrupt state of I/O bit `b` in 1..24 (R35). -/
def bitState (ch : Chip) (b : Nat) : BitState :=
  let e := (bankRead ch.enab (portOf b) 0).getLsbD (posOf b)
  let q := (bankRead ch.pol (portOf b) 0).getLsbD (posOf b)
  let l := (bankRead ch.intId (portOf b) 0).getLsbD (posOf b)
  if e then (if l then .pending q else .armed q) else .disabled

end Sys2Proof.Machine
end

