-- ==== Sys2Proof/Machine/Ops.lean ====
section
/-! DEFINITION. The shared operations: bus accesses (R120, R121), edge capture (R173), locks (R76, R77),
the page switch (R123), the queue primitives (R201, R202, R213), micro-programs and how an agent runs
one (R11, R50), faults as responses (R250), issue (R255), and the parts of the state a step names. -/

namespace Sys2Proof.Machine

/-! ### Bus accesses -/

/-- `Capture(c, i, old, new)` (R173). -/
def capture (i : Nat) (old new : Byte) (ch : Chip) : Chip :=
  { ch with
    intId := bankWrite ch.intId i
      (bankRead ch.intId i 0 ||| edges (bankRead ch.enab i 0) (bankRead ch.pol i 0) old new) }

/-- Capture where the port has detectors: ports 0, 1 and 2 (R121, R172). -/
def captureIf (p : Nat) (old new : Byte) (ch : Chip) : Chip :=
  if p ≤ 2 then capture p old new ch else ch

/-- What the paged offset `8+i` shows (R64, R120); `c` names the chip for the free value. -/
def pagedRead (c i : Nat) (ch : Chip) : Byte :=
  if ch.page = 0 then Config.unmapped c ch.draws
  else if ch.page = 1 then bankRead ch.pol i 0
  else if ch.page = 2 then bankRead ch.enab i 0
  else bankRead ch.intId i 0

/-- A bus write to the paged offset `8+i` (R64, R121, R174, R175). -/
def pagedWrite (i : Nat) (v : Byte) (ch : Chip) : Chip :=
  if ch.page = 0 then ch
  else if ch.page = 1 then { ch with pol := bankWrite ch.pol i v }
  else if ch.page = 2 then
    { ch with
      enab := bankWrite ch.enab i v
      intId := bankWrite ch.intId i (bankRead ch.intId i 0 &&& v) }
  else { ch with intId := bankWrite ch.intId i 0 }

/-- `IoRead(c, off)` (R120).  An offset above 10 does not exist and no step reads one (R62, R122): it
reads as a free value, log entry 20. -/
def ioRead (c off : Nat) (ch : Chip) : Byte :=
  if off ≤ 5 then line ch off
  else if off = 6 then Config.pendingHigh c ch.draws ++ pend ch
  else if off = 7 then ch.page ++ ch.lock
  else if off ≤ 10 then pagedRead c (off - 8) ch
  else Config.unmapped c ch.draws

/-- A read of this offset draws a free value (R33, R65). -/
def drawsAt (off : Nat) (ch : Chip) : Bool :=
  off == 6 || ((8 ≤ off && off ≤ 10) && ch.page == 0) || 11 ≤ off

/-- The chip after a bus read: nothing the spec names changes (R70); a drawn free value is counted, so
that the next draw is a fresh one (log entry 6). -/
def afterRead (off : Nat) (ch : Chip) : Chip :=
  if drawsAt off ch then { ch with draws := ch.draws + 1 } else ch

/-- A bus write to data port `p` (R121): discarded while the port is locked, else the output register
takes the byte and the edges it makes on the lines are captured. -/
def outWrite (p : Nat) (v : Byte) (ch : Chip) : Chip :=
  if portLocked ch p then ch
  else
    captureIf p (line ch p) (v ||| bankRead ch.ext p 0) { ch with out := bankWrite ch.out p v }

/-- `IoWrite(c, off, v)` (R121).  Writes to offset 6 and to offsets that do not exist change nothing. -/
def ioWrite (off : Nat) (v : Byte) (ch : Chip) : Chip :=
  if off ≤ 5 then outWrite off v ch
  else if off = 7 then { ch with page := v.extractLsb' 6 2, lock := v.extractLsb' 0 6 }
  else if 8 ≤ off ∧ off ≤ 10 then pagedWrite (off - 8) v ch
  else ch

/-- Step 2 of the port and bit writes: the image follows the write where it takes effect, in the same
step (R22, R133, R152). -/
def writeThrough (off : Nat) (v : Byte) (ch : Chip) : Chip :=
  ioWrite off v
    (if off ≤ 5 ∧ portLocked ch off = false then { ch with img := bankWrite ch.img off v } else ch)

/-! ### Queue primitives -/

/-- What POP finds in the slot `QOUT` names; a slot nothing has written is a free value (R36, U4). -/
def oldest (c : Nat) (ch : Chip) : EventNo :=
  (memRead? ch.buf ch.qout.toNat).getD (Config.unwritten c ch.draws)

/-- `PUSH(c, e)` (R201). -/
def push (e : EventNo) (ch : Chip) : Chip :=
  { ch with
    buf := memStore ch.buf ch.qin.toNat e
    qin := ch.qin + 1
    qout := if queueFull ch then ch.qout + 1 else ch.qout
    qcnt := if queueFull ch then ch.qcnt else ch.qcnt + 1 }

/-- The value `POP(c)` yields: the oldest unread event, or 0 for none (R202). -/
def popValue (c : Nat) (ch : Chip) : EventNo := if queueEmpty ch then 0 else oldest c ch

/-- The chip after `POP(c)` (R202); the slot is not erased. -/
def popChip (ch : Chip) : Chip :=
  if queueEmpty ch then ch
  else
    { ch with
      qout := ch.qout + 1
      qcnt := ch.qcnt - 1
      draws := if (memRead? ch.buf ch.qout.toNat).isSome then ch.draws else ch.draws + 1 }

/-- `WAKE(c)` (R213). -/
def wake (ch : Chip) : Chip := { ch with woken := ch.waiters }

/-- A consumer joins `WAITERS[c]` (R42, R211). -/
def joinWaiters (k : Nat) (ch : Chip) : Chip := { ch with waiters := idsInsert k ch.waiters }

/-- A consumer leaves `WAITERS[c]` and `WOKEN[c]` (R42, R211). -/
def leaveWaiters (k : Nat) (ch : Chip) : Chip :=
  { ch with waiters := idsRemove k ch.waiters, woken := idsRemove k ch.woken }

/-! ### Responses -/

/-- The status of a response (R102). -/
inductive Status where
  | ok
  | unavailable
  | indexFault
  | illegal
  deriving DecidableEq, Repr

/-- The status codes (R102). -/
def statusCode : Status → BitVec 2
  | .ok => 0
  | .unavailable => 1
  | .indexFault => 2
  | .illegal => 3

/-- The response word (R101): bits 15:10 zero, bits 9:8 status, bits 7:0 value. -/
def responseWord (st : Status) (v : Byte) : RspWord := 0#6 ++ statusCode st ++ v

/-- A bit number, or 0 for none, as a response value (R103). -/
def eventValue (r : EventNo) : Byte := r.setWidth 8

/-! ### Micro-programs -/

/-- What the next step of an agent does (R11): it is not enabled; or it is taken and step `upc` is
next (R50); or it is taken and answers, which ends the command (R50, R101). -/
inductive Micro where
  | wait
  | goto (upc : Nat) (tmp : Temps) (ch : Chip)
  | respond (st : Status) (v : Byte) (ch : Chip)
  deriving DecidableEq, Repr

/-- A micro-program (R11): the step numbered `upc`, from the agent's temporaries and the chip.  Steps are
counted as numbers here and kept in the 6 bits of R50: log entry 10. -/
abbrev Program := Nat → Temps → Chip → Micro

/-- `Acquire(WLOCK[c])` (R76): enabled only while the lock is free. -/
def acquireW (me : Holder) (next : Nat) (tmp : Temps) (ch : Chip) : Micro :=
  if ch.wlock = none then .goto next tmp { ch with wlock := some me } else .wait

/-- `Acquire(QLOCK[c])` (R76). -/
def acquireQ (me : Holder) (next : Nat) (tmp : Temps) (ch : Chip) : Micro :=
  if ch.qlock = none then .goto next tmp { ch with qlock := some me } else .wait

/-- `Release(WLOCK[c])` and what the same step does after it; only the holder releases (R77). -/
def releaseW (me : Holder) (ch : Chip) (k : Chip → Micro) : Micro :=
  if ch.wlock = some me then k { ch with wlock := none } else .wait

/-- `Release(QLOCK[c])` and what the same step does after it; only the holder releases (R77). -/
def releaseQ (me : Holder) (ch : Chip) (k : Chip → Micro) : Micro :=
  if ch.qlock = some me then k { ch with qlock := none } else .wait

/-- `t <- IoRead(c, off)`. -/
def readTo (c off next : Nat) (tmp : Temps) (ch : Chip) : Micro :=
  .goto next { tmp with t := ioRead c off ch } (afterRead off ch)

/-- `IoWrite(c, off, v)`. -/
def writeFrom (off : Nat) (v : Byte) (next : Nat) (tmp : Temps) (ch : Chip) : Micro :=
  .goto next tmp (ioWrite off v ch)

/-- The byte that selects a page, all locks clear: `pg << 6` (R28, R123). -/
def pageCode (pg : BitVec 2) : Byte := pg ++ 0#6

/-- Step a of SELECT: `t <- IoRead(c, 7)` (R123). -/
def selectRead (c next : Nat) (tmp : Temps) (ch : Chip) : Micro := readTo c 7 next tmp ch

/-- Step b of SELECT: `IoWrite(c, 7, (t & 0x3F) | (pg << 6))` (R123). -/
def selectWrite (pg : BitVec 2) (next : Nat) (tmp : Temps) (ch : Chip) : Micro :=
  writeFrom 7 ((tmp.t &&& 0x3F) ||| pageCode pg) next tmp ch

/-- How far an agent got that was left to take its own steps: it waits before step `upc`, or it has
answered. -/
inductive Progress where
  | waiting (upc : Nat) (tmp : Temps) (ch : Chip)
  | answered (st : Status) (v : Byte) (ch : Chip)
  deriving DecidableEq, Repr

/-- The agent takes its own steps, at most `fuel` of them, until it answers or must wait. -/
def runProgram (p : Program) : Nat → Nat → Temps → Chip → Progress
  | 0, upc, tmp, ch => .waiting upc tmp ch
  | fuel + 1, upc, tmp, ch =>
    match p upc tmp ch with
    | .wait => .waiting upc tmp ch
    | .goto upc' tmp' ch' => runProgram p fuel upc' tmp' ch'
    | .respond st v ch' => .answered st v ch'

/-- The longest micro-program has 40 steps (R50). -/
def longestProgram : Nat := 40

/-! ### The parts of the state -/

/-- The state of chip slot `c`; a number of no slot reads as a chip after reset and is never used. -/
def State.chip (s : State) (c : Nat) : Chip :=
  bankRead s.chips (slotIx c) (Chip.resetWith (Vector.replicate 6 0) 0)

/-- The state with chip slot `c` replaced. -/
def State.setChip (s : State) (c : Nat) (ch : Chip) : State :=
  { s with chips := bankWrite s.chips (slotIx c) ch }

/-- Slot `c` is present (R7). -/
def State.present (s : State) (c : Nat) : Bool := presentIn s.cfg c

/-- Slot `c` is in IRQ-driven mode (R7). -/
def State.irqMode (s : State) (c : Nat) : Bool := irqModeIn s.cfg c

/-- The command consumer `k` has in flight (R50). -/
def State.flight (s : State) (k : Nat) : Option InFlight := cellsLookup k s.inflight

/-- Consumer `k` has a command in flight. -/
def State.busy (s : State) (k : Nat) : Bool := (s.flight k).isSome

/-- The state with consumer `k`'s in-flight record set (R50). -/
def State.setFlight (s : State) (k : Nat) (r : InFlight) : State :=
  { s with inflight := cellsStore k r s.inflight }

/-- The state with consumer `k`'s in-flight record gone (R50). -/
def State.endFlight (s : State) (k : Nat) : State :=
  { s with inflight := cellsRemove k s.inflight }

/-- `respond(status, value)`: the response word goes to the consumer's response port (R10, R101). -/
def State.deliver (s : State) (k : Nat) (st : Status) (v : Byte) : State :=
  { s with responses := s.responses ++ [{ consumer := k, word := responseWord st v }] }

/-! ### Taking a fault -/

/-- `raise <Fault>` (R10, R250): the command ends at its issue with the fault's status and value 0, and
nothing else happens.  Every fault of the block is taken here. -/
def raiseFault (k : Nat) (st : Status) (s : State) : State := s.deliver k st 0

/-! ### Commands -/

/-- The command an in-flight record is of (R50, R92). -/
def commandOf (r : InFlight) : Option Instr := (decode r.word).toOption

/-- The state after consumer `k`'s command, with the word `w` and for chip `c`, got as far as `p` says. -/
def settle (k : Nat) (w : CmdWord) (c : Nat) (p : Progress) (s : State) : State :=
  match p with
  | .waiting upc tmp ch =>
    (s.setChip c ch).setFlight k { word := w, upc := BitVec.ofNat 6 upc, tmp := tmp }
  | .answered st v ch => ((s.setChip c ch).endFlight k).deliver k st v

/-- The checks of the issue step after decoding, in their order (R255): the fault, if one is raised. -/
def issueFault (i : Instr) (s : State) : Option Status :=
  if s.present i.chipField = false then some .unavailable
  else if indexOk i = false then some .indexFault
  else none

/-- Issue (R255), and then `accepted` where no check fails.  A consumer with a command in flight
issues none (D1): log entry 14. -/
def issueThen (k : Nat) (i : Instr) (accepted : State → State) (s : State) :
    Host.Outcome State Fault Refusal :=
  if s.busy k then .refused .consumerBusy
  else
    match issueFault i s with
    | some st => .next (raiseFault k st s)
    | none => .next (accepted s)

/-- Issue alone: the in-flight record, with the command's word and `upc = 1` (R50, R255; log entry 9). -/
def issueOnly (k : Nat) (i : Instr) (s : State) : Host.Outcome State Fault Refusal :=
  issueThen k i (fun s => s.setFlight k { word := encode i, upc := 1, tmp := {} }) s

/-- Issue by the consumer at the command port, which then takes its own steps to its response or its
first wait (log entry 1); `prog` is the command's micro-program. -/
def command (i : Instr) (prog : Program) (s : State) : Host.Outcome State Fault Refusal :=
  issueThen s.cur i
    (fun s =>
      settle s.cur (encode i) i.chipField
        (runProgram prog longestProgram 1 {} (s.chip i.chipField)) s) s

/-- The word decodes to no command: ILLEGAL, before the `chip` field is looked at (R251, R255). -/
def rejectWord (k : Nat) (s : State) : Host.Outcome State Fault Refusal :=
  if s.busy k then .refused .consumerBusy else .next (raiseFault k .illegal s)

/-! ### The notation MemRead and MemWrite -/

/-- `MemRead(addr, 1)` (R10): the bus read of the window register at a host I/O address: the byte, and
the state in which a free value the read drew is counted. -/
def memRead (addr : BitVec 16) (s : State) : Except Fault (Byte × State) :=
  match windowOf s.cfg addr with
  | some (c, off) => .ok (ioRead c off (s.chip c), s.setChip c (afterRead off (s.chip c)))
  | none => .error .noWindowRegister

/-- `MemWrite(addr, 1, v)` (R10). -/
def memWrite (addr : BitVec 16) (v : Byte) (s : State) : Except Fault State :=
  match windowOf s.cfg addr with
  | some (c, off) => .ok (s.setChip c (ioWrite off v (s.chip c)))
  | none => .error .noWindowRegister

end Sys2Proof.Machine
end

