-- ==== Sys2Proof/Machine/Image.lean ====
section
/-! DEFINITION. The Bit/Port Image Cache's commands: READ_BIT, WRITE_BIT, SET_BIT, CLR_BIT (R150 to
R155). -/

namespace Sys2Proof.Machine

/-- READ_BIT `c, b` (R151): the level of the line, under no lock. -/
def progReadBit (c b : Nat) : Program := fun upc _ ch =>
  match upc with
  | 1 =>
    .respond .ok ((BitVec.ofBool ((ioRead c (portOf b) ch).getLsbD (posOf b))).setWidth 8)
      (afterRead (portOf b) ch)
  | _ => .wait

/-- READ_BIT (R151). -/
def execReadBit (c b : Nat) (s : State) : Host.Outcome State Fault Refusal :=
  command (.readBit c b) (progReadBit c b) s

/-- WRITE_BIT `c, b, val` (R152): the merged byte comes from the image, never from a bus read; SET_BIT
and CLR_BIT are this with `val` fixed (R153, R154, D27). -/
def progWriteBit (me : Holder) (b : Nat) (val : Bool) : Program := fun upc tmp ch =>
  match upc with
  | 1 => acquireW me 2 tmp ch
  | 2 =>
    .goto 3 { tmp with n := mergeMask val (bankRead ch.img (portOf b) 0) (maskOf b) }
      (writeThrough (portOf b) (mergeMask val (bankRead ch.img (portOf b) 0) (maskOf b)) ch)
  | 3 => releaseW me ch fun ch' => .respond .ok 0 ch'
  | _ => .wait

/-- WRITE_BIT (R152). -/
def execWriteBit (c b : Nat) (data : Byte) (s : State) : Host.Outcome State Fault Refusal :=
  command (.writeBit c b data) (progWriteBit (.consumer s.cur) b (truthOf data)) s

/-- SET_BIT (R153). -/
def execSetBit (c b : Nat) (s : State) : Host.Outcome State Fault Refusal :=
  command (.setBit c b) (progWriteBit (.consumer s.cur) b true) s

/-- CLR_BIT (R154). -/
def execClrBit (c b : Nat) (s : State) : Host.Outcome State Fault Refusal :=
  command (.clrBit c b) (progWriteBit (.consumer s.cur) b false) s

end Sys2Proof.Machine
end

