-- ==== Sys2Proof/Machine/Paging.lean ====
section
/-! DEFINITION. The Register Paging Controller's two commands, READ_PORT and WRITE_PORT (R131, R133). -/

namespace Sys2Proof.Machine

/-- READ_PORT `c, off` (R131): one step, under no lock. -/
def progReadPort (c off : Nat) : Program := fun upc _ ch =>
  match upc with
  | 1 => .respond .ok (ioRead c off ch) (afterRead off ch)
  | _ => .wait

/-- READ_PORT (R131). -/
def execReadPort (c off : Nat) (s : State) : Host.Outcome State Fault Refusal :=
  command (.readPort c off) (progReadPort c off) s

/-- WRITE_PORT `c, off, v` (R133, R134). -/
def progWritePort (me : Holder) (off : Nat) (v : Byte) : Program := fun upc tmp ch =>
  match upc with
  | 1 => acquireW me 2 tmp ch
  | 2 => .goto 3 tmp (writeThrough off v ch)
  | 3 => releaseW me ch fun ch' => .respond .ok 0 ch'
  | _ => .wait

/-- WRITE_PORT (R133). -/
def execWritePort (c off : Nat) (v : Byte) (s : State) : Host.Outcome State Fault Refusal :=
  command (.writePort c off v) (progWritePort (.consumer s.cur) off v) s

end Sys2Proof.Machine
end

