-- ==== Sys2Proof/Machine/PortLock.lean ====
section
/-! DEFINITION. The Port Lock Mechanism's commands, LOCK_PORT and UNLOCK_PORT (R240 to R242). -/

namespace Sys2Proof.Machine

/-- LOCK_PORT `c, p` (R241): a read-modify-write of offset 7, which has one layout in every page. -/
def progLockPort (me : Holder) (c p : Nat) : Program := fun upc tmp ch =>
  match upc with
  | 1 => acquireW me 2 tmp ch
  | 2 => readTo c 7 3 tmp ch
  | 3 => writeFrom 7 (tmp.t ||| 1#8 <<< p) 4 tmp ch
  | 4 => releaseW me ch fun ch' => .respond .ok 0 ch'
  | _ => .wait

/-- LOCK_PORT (R241). -/
def execLockPort (c p : Nat) (s : State) : Host.Outcome State Fault Refusal :=
  command (.lockPort c p) (progLockPort (.consumer s.cur) c p) s

/-- UNLOCK_PORT `c, p` (R242). -/
def progUnlockPort (me : Holder) (c p : Nat) : Program := fun upc tmp ch =>
  match upc with
  | 1 => acquireW me 2 tmp ch
  | 2 => readTo c 7 3 tmp ch
  | 3 => writeFrom 7 (tmp.t &&& ~~~(1#8 <<< p)) 4 tmp ch
  | 4 => releaseW me ch fun ch' => .respond .ok 0 ch'
  | _ => .wait

/-- UNLOCK_PORT (R242). -/
def execUnlockPort (c p : Nat) (s : State) : Host.Outcome State Fault Refusal :=
  command (.unlockPort c p) (progUnlockPort (.consumer s.cur) c p) s

end Sys2Proof.Machine
end

