-- ==== Sys2Proof/Machine/Interrupt.lean ====
section
/-! DEFINITION. The Interrupt Management Unit: ENABLE_INT, DISABLE_INT, CLEAR_INT, CLEAR_INT_ID, and the
sequences CLEARPULSE, POLL and SERVICE (R171, R178 to R185). -/

namespace Sys2Proof.Machine

/-- ENABLE_INT `c, b, pol` (R178). -/
def progEnableInt (me : Holder) (c b : Nat) (rising : Bool) : Program := fun upc tmp ch =>
  match upc with
  | 1 => acquireW me 2 tmp ch
  | 2 => selectRead c 3 tmp ch
  | 3 => selectWrite 2 4 tmp ch
  | 4 => readTo c (8 + portOf b) 5 tmp ch
  | 5 => writeFrom (8 + portOf b) (tmp.t ||| maskOf b) 6 tmp ch
  | 6 => selectRead c 7 tmp ch
  | 7 => selectWrite 1 8 tmp ch
  | 8 => readTo c (8 + portOf b) 9 tmp ch
  | 9 => writeFrom (8 + portOf b) (mergeMask rising tmp.t (maskOf b)) 10 tmp ch
  | 10 => selectRead c 11 tmp ch
  | 11 => selectWrite Config.idlePage 12 tmp ch
  | 12 => releaseW me ch fun ch' => .respond .ok 0 ch'
  | _ => .wait

/-- ENABLE_INT (R178). -/
def execEnableInt (c b : Nat) (data : Byte) (s : State) : Host.Outcome State Fault Refusal :=
  command (.enableInt c b data) (progEnableInt (.consumer s.cur) c b (truthOf data)) s

/-- DISABLE_INT `c, b` (R179). -/
def progDisableInt (me : Holder) (c b : Nat) : Program := fun upc tmp ch =>
  match upc with
  | 1 => acquireW me 2 tmp ch
  | 2 => selectRead c 3 tmp ch
  | 3 => selectWrite 2 4 tmp ch
  | 4 => readTo c (8 + portOf b) 5 tmp ch
  | 5 => writeFrom (8 + portOf b) (tmp.t &&& ~~~maskOf b) 6 tmp ch
  | 6 => selectRead c 7 tmp ch
  | 7 => selectWrite Config.idlePage 8 tmp ch
  | 8 => releaseW me ch fun ch' => .respond .ok 0 ch'
  | _ => .wait

/-- DISABLE_INT (R179). -/
def execDisableInt (c b : Nat) (s : State) : Host.Outcome State Fault Refusal :=
  command (.disableInt c b) (progDisableInt (.consumer s.cur) c b) s

/-- CLEARPULSE(c, b) (R180): its steps a to g are `pos` 1 to 7 and stand at the positions `base`,
`base+1`, … of the micro-program that holds it. -/
def clearPulse (c b base pos : Nat) (tmp : Temps) (ch : Chip) : Micro :=
  match pos with
  | 1 => selectRead c (base + 1) tmp ch
  | 2 => selectWrite 2 (base + 2) tmp ch
  | 3 => readTo c (8 + portOf b) (base + 3) tmp ch
  | 4 => writeFrom (8 + portOf b) (tmp.t &&& ~~~maskOf b) (base + 4) tmp ch
  | 5 => writeFrom (8 + portOf b) (tmp.t ||| maskOf b) (base + 5) tmp ch
  | 6 => selectRead c (base + 6) tmp ch
  | 7 => selectWrite Config.idlePage (base + 7) tmp ch
  | _ => .wait

/-- CLEAR_INT `c, b` (R181). -/
def progClearInt (me : Holder) (c b : Nat) : Program := fun upc tmp ch =>
  match upc with
  | 1 => acquireW me 2 tmp ch
  | 9 => releaseW me ch fun ch' => .respond .ok 0 ch'
  | n => clearPulse c b 2 (n - 1) tmp ch

/-- CLEAR_INT (R181). -/
def execClearInt (c b : Nat) (s : State) : Host.Outcome State Fault Refusal :=
  command (.clearInt c b) (progClearInt (.consumer s.cur) c b) s

/-- CLEAR_INT_ID `c, p` (R182). -/
def progClearIntId (me : Holder) (c p : Nat) : Program := fun upc tmp ch =>
  match upc with
  | 1 => acquireW me 2 tmp ch
  | 2 => selectRead c 3 tmp ch
  | 3 => selectWrite 3 4 tmp ch
  | 4 => writeFrom (8 + p) 0x00 5 tmp ch
  | 5 => selectRead c 6 tmp ch
  | 6 => selectWrite Config.idlePage 7 tmp ch
  | 7 => releaseW me ch fun ch' => .respond .ok 0 ch'
  | _ => .wait

/-- CLEAR_INT_ID (R182). -/
def execClearIntId (c p : Nat) (s : State) : Host.Outcome State Fault Refusal :=
  command (.clearIntId c p) (progClearIntId (.consumer s.cur) c p) s

/-- The bit number of the least latch of port `i`, from that port's interrupt-ID byte (R183). -/
def foundIn (i : Nat) (v : Byte) : EventNo := BitVec.ofNat 6 (bitNo i (lsb v))

/-- Steps d, e and f of POLL (R183): read the interrupt-ID register of port `i`; where it is not zero
its least bit is the result and step g, at `found`, is next; else `next`, with `r` as `missed` says. -/
def scanPort (c i found next : Nat) (missed : EventNo) (tmp : Temps) (ch : Chip) : Micro :=
  if ioRead c (8 + i) ch = 0 then
    .goto next { tmp with t := ioRead c (8 + i) ch, r := missed } (afterRead (8 + i) ch)
  else
    .goto found { tmp with t := ioRead c (8 + i) ch, r := foundIn i (ioRead c (8 + i) ch) }
      (afterRead (8 + i) ch)

/-- POLL(c) (R183): its steps a to h are `pos` 1 to 8 and stand at `base`, `base+1`, …; `none` is the
position taken when nothing is pending.  Steps d and e leave `r` where they find nothing; f makes it 0. -/
def poll (c base none pos : Nat) (tmp : Temps) (ch : Chip) : Micro :=
  match pos with
  | 1 =>
    if (ioRead c 6 ch).extractLsb' 0 3 = 0 then
      .goto none { tmp with s := 0, r := 0 } (afterRead 6 ch)
    else .goto (base + 1) { tmp with s := (ioRead c 6 ch).extractLsb' 0 3 } (afterRead 6 ch)
  | 2 => selectRead c (base + 2) tmp ch
  | 3 => selectWrite 3 (base + 3) tmp ch
  | 4 => scanPort c 0 (base + 6) (base + 4) tmp.r tmp ch
  | 5 => scanPort c 1 (base + 6) (base + 5) tmp.r tmp ch
  | 6 => scanPort c 2 (base + 6) (base + 6) 0 tmp ch
  | 7 => selectRead c (base + 7) tmp ch
  | 8 => selectWrite Config.idlePage (if tmp.r = 0 then none else base + 8) tmp ch
  | _ => .wait

/-- SERVICE(c) (R185): POLL at its first eight positions, then, where POLL found a bit, CLEARPULSE of
that bit at the last seven; the position after it is `base + 15`. -/
def service (c base pos : Nat) (tmp : Temps) (ch : Chip) : Micro :=
  if pos ≤ 8 then poll c base (base + 15) pos tmp ch
  else clearPulse c tmp.r.toNat (base + 8) (pos - 8) tmp ch

end Sys2Proof.Machine
end

