-- ==== Sys2Proof/Machine/Queue.lean ====
section
/-! DEFINITION. The Interrupt Event Queue's commands GET_INT and WAIT_INT in both modes, and the producer,
the interrupt service sequencer (R210, R211, R215). -/

namespace Sys2Proof.Machine

/-- GET_INT `c` in IRQ-driven mode (R210). -/
def progGetBuffered (me : Holder) (c : Nat) : Program := fun upc tmp ch =>
  match upc with
  | 1 => acquireQ me 2 tmp ch
  | 2 => .goto 3 { tmp with r := popValue c ch } (popChip ch)
  | 3 => releaseQ me ch fun ch' => .respond .ok (eventValue tmp.r) ch'
  | _ => .wait

/-- GET_INT `c` in polled mode (R210): SERVICE at positions 2 to 16. -/
def progGetPolled (me : Holder) (c : Nat) : Program := fun upc tmp ch =>
  match upc with
  | 1 => acquireW me 2 tmp ch
  | 17 => releaseW me ch fun ch' => .respond .ok (eventValue tmp.r) ch'
  | n => service c 2 (n - 1) tmp ch

/-- GET_INT, by the chip's mode (R210). -/
def progGetInt (me : Holder) (irqMode : Bool) (c : Nat) : Program :=
  if irqMode then progGetBuffered me c else progGetPolled me c

/-- GET_INT (R210). -/
def execGetInt (c : Nat) (s : State) : Host.Outcome State Fault Refusal :=
  command (.getInt c) (progGetInt (.consumer s.cur) (s.irqMode c) c) s

/-- WAIT_INT `c` of consumer `k` in IRQ-driven mode (R211). -/
def progWaitBuffered (k c : Nat) : Program := fun upc tmp ch =>
  match upc with
  | 1 => acquireQ (.consumer k) 2 tmp ch
  | 2 =>
    .goto 3 { tmp with r := popValue c ch }
      (if popValue c ch = 0 then joinWaiters k (popChip ch) else popChip ch)
  | 3 =>
    releaseQ (.consumer k) ch fun ch' =>
      if tmp.r = 0 then .goto 4 tmp ch' else .respond .ok (eventValue tmp.r) ch'
  | 4 => if k ∈ ch.woken ∨ ch.qcnt ≠ 0 then acquireQ (.consumer k) 5 tmp ch else .wait
  | 5 =>
    .goto 6 { tmp with r := popValue c (leaveWaiters k ch) } (popChip (leaveWaiters k ch))
  | 6 => releaseQ (.consumer k) ch fun ch' => .respond .ok (eventValue tmp.r) ch'
  | _ => .wait

/-- WAIT_INT `c` of consumer `k` in polled mode (R211): SERVICE at positions 2 to 16 and 25 to 39. -/
def progWaitPolled (k c : Nat) : Program := fun upc tmp ch =>
  match upc with
  | 1 => acquireW (.consumer k) 2 tmp ch
  | 17 =>
    releaseW (.consumer k) ch fun ch' =>
      if tmp.r = 0 then .goto 18 tmp ch' else .respond .ok (eventValue tmp.r) ch'
  | 18 => acquireQ (.consumer k) 19 tmp ch
  | 19 => .goto 20 tmp (joinWaiters k ch)
  | 20 => releaseQ (.consumer k) ch fun ch' => .goto 21 tmp ch'
  | 21 => if k ∈ ch.woken then acquireQ (.consumer k) 22 tmp ch else .wait
  | 22 => .goto 23 tmp (leaveWaiters k ch)
  | 23 => releaseQ (.consumer k) ch fun ch' => .goto 24 tmp ch'
  | 24 => acquireW (.consumer k) 25 tmp ch
  | 40 => releaseW (.consumer k) ch fun ch' => .respond .ok (eventValue tmp.r) ch'
  | n => if n ≤ 16 then service c 2 (n - 1) tmp ch else service c 25 (n - 24) tmp ch

/-- WAIT_INT, by the chip's mode (R211). -/
def progWaitInt (k : Nat) (irqMode : Bool) (c : Nat) : Program :=
  if irqMode then progWaitBuffered k c else progWaitPolled k c

/-- WAIT_INT (R211). -/
def execWaitInt (c : Nat) (s : State) : Host.Outcome State Fault Refusal :=
  command (.waitInt c) (progWaitInt s.cur (s.irqMode c) c) s

/-- One service pass of `ISS[c]` (R215).  From idle its first step is the acquisition, enabled only while
`IRQ[c]` is 1, after which `upc` is 2 (R214, R263); it ends at 0, idle (R264). -/
def progIss (c : Nat) : Program := fun upc tmp ch =>
  match upc with
  | 0 => if irq ch then acquireW .iss 2 tmp ch else .wait
  | 1 => if irq ch then acquireW .iss 2 tmp ch else .wait
  | 17 => releaseW .iss ch fun ch' => if tmp.r = 0 then .goto 0 tmp ch' else .goto 18 tmp ch'
  | 18 => acquireQ .iss 19 tmp ch
  | 19 => .goto 20 tmp (wake (push tmp.r ch))
  | 20 => releaseQ .iss ch fun ch' => .goto 0 tmp ch'
  | n => service c 2 (n - 1) tmp ch

end Sys2Proof.Machine
end

