-- ==== Sys2Proof/Machine/Agents.lean ====
section
/-! DEFINITION. The agents' single steps (R11, R267): a consumer's command in flight, the interrupt
service sequencer, and the environment's `EnvSet`, `EnvWake` and reset (R172, R216, R290). -/

namespace Sys2Proof.Machine

/-- The micro-program of a command of consumer `k` on a chip of the given mode. -/
def programOf (k : Nat) (irqMode : Bool) : Instr → Program
  | .readPort c off => progReadPort c off
  | .writePort _ off v => progWritePort (.consumer k) off v
  | .readBit c b => progReadBit c b
  | .writeBit _ b data => progWriteBit (.consumer k) b (truthOf data)
  | .setBit _ b => progWriteBit (.consumer k) b true
  | .clrBit _ b => progWriteBit (.consumer k) b false
  | .enableInt c b data => progEnableInt (.consumer k) c b (truthOf data)
  | .disableInt c b => progDisableInt (.consumer k) c b
  | .clearInt c b => progClearInt (.consumer k) c b
  | .getInt c => progGetInt (.consumer k) irqMode c
  | .waitInt c => progWaitInt k irqMode c
  | .clearIntId c p => progClearIntId (.consumer k) c p
  | .lockPort c p => progLockPort (.consumer k) c p
  | .unlockPort c p => progUnlockPort (.consumer k) c p

/-- What the next step of command `i` of consumer `k` does, where its record `r` stands (R50); nothing
is enabled where its chip is absent. -/
def commandMicro (k : Nat) (i : Instr) (r : InFlight) (s : State) : Micro :=
  if s.present i.chipField then
    programOf k (s.irqMode i.chipField) i r.upc.toNat r.tmp (s.chip i.chipField)
  else .wait

/-- What the next step of consumer `k` does; nothing is enabled where it has no command in flight. -/
def consumerMicro (k : Nat) (s : State) : Micro :=
  match s.flight k with
  | none => .wait
  | some r =>
    match commandOf r with
    | none => .wait
    | some i => commandMicro k i r s

/-- One step of consumer `k`'s command in flight (R11, R50); a step that is not enabled leaves the
state as it is. -/
def consumerStep (k : Nat) (s : State) : State :=
  match s.flight k with
  | none => s
  | some r =>
    match commandOf r with
    | none => s
    | some i =>
      match commandMicro k i r s with
      | .wait => s
      | .goto upc tmp ch => settle k r.word i.chipField (.waiting upc tmp ch) s
      | .respond st v ch => settle k r.word i.chipField (.answered st v ch) s

/-- What the next step of `ISS[c]` does; it exists in IRQ-driven mode only (R51, R214). -/
def issMicro (c : Nat) (s : State) : Micro :=
  if s.irqMode c then progIss c (s.chip c).iss.upc.toNat (s.chip c).iss.tmp (s.chip c) else .wait

/-- One step of `ISS[c]` (R215); a step that is not enabled leaves the state as it is.  The sequencer
answers no one. -/
def issStep (c : Nat) (s : State) : State :=
  match issMicro c s with
  | .goto upc tmp ch => s.setChip c { ch with iss := { upc := BitVec.ofNat 6 upc, tmp := tmp } }
  | .wait => s
  | .respond _ _ _ => s

/-- The chip part of `EnvSet(c, p, v)` (R172). -/
def extWrite (p : Nat) (v : Byte) (ch : Chip) : Chip :=
  captureIf p (line ch p) (bankRead ch.out p 0 ||| v) { ch with ext := bankWrite ch.ext p v }

/-- `EnvSet(c, p, v)` (R172): enabled at any time, under no lock, for a port of a present chip. -/
def envSet (c p : Nat) (v : Byte) (s : State) : Host.Outcome State Fault Refusal :=
  if s.present c = true ∧ p ≤ 5 then .next (s.setChip c (extWrite p v (s.chip c)))
  else .refused .noSuchLine

/-- `EnvWake(c)` (R216): enabled at any time, under no lock, for a present chip. -/
def envWake (c : Nat) (s : State) : Host.Outcome State Fault Refusal :=
  if s.present c then .next (s.setChip c (wake (s.chip c))) else .refused .noSuchLine

/-- The block is quiescent: no command in flight, every ISS idle (R296). -/
def quiescent (s : State) : Bool :=
  s.inflight.isEmpty && slotNumbers.all fun c => (s.chip c).iss.upc == 0

/-- A run is over when the block is quiescent and no IRQ-driven chip requests service (R296); that no
consumer will issue another command is the consumers' own. -/
def settled (s : State) : Bool :=
  quiescent s && slotNumbers.all fun c => !s.irqMode c || !irq (s.chip c)

/-- The chip of slot `c` after reset (R56): its external levels and its draw counter stay. -/
def resetChip (c : Nat) (s : State) : Chip := Chip.resetWith (s.chip c).ext (s.chip c).draws

/-- Reset (R290): every chip to the reset state at once; the configuration and the external levels stay
(R292), and so do the responses already delivered.  Enabled only when the block is quiescent. -/
def envReset (s : State) : Host.Outcome State Fault Refusal :=
  if quiescent s then
    .next { s with
      chips := #v[resetChip 1 s, resetChip 2 s, resetChip 3 s, resetChip 4 s] }
  else .refused .resetNotQuiescent

/-- A consumer with no command in flight: the one at the command port, or else one above all that have
one. -/
def freeConsumer (s : State) : Nat :=
  if s.busy s.cur then s.inflight.foldl (fun n e => max n (e.1 + 1)) 0 else s.cur

end Sys2Proof.Machine
end

