-- ==== Sys2Proof/Machine/Dispatch.lean ====
section
/-! DEFINITION. One arm per command: the meaning of each row of the opcode table (R96). -/

namespace Sys2Proof.Machine

/-- The effect of a command presented by the consumer at the command port. -/
def exec (i : Instr) (s : State) : Host.Outcome State Fault Refusal :=
  match i with
  | .readPort chip index => Sys2Proof.Machine.execReadPort chip index s
  | .writePort chip index data => Sys2Proof.Machine.execWritePort chip index data s
  | .readBit chip index => Sys2Proof.Machine.execReadBit chip index s
  | .writeBit chip index data => Sys2Proof.Machine.execWriteBit chip index data s
  | .setBit chip index => Sys2Proof.Machine.execSetBit chip index s
  | .clrBit chip index => Sys2Proof.Machine.execClrBit chip index s
  | .enableInt chip index data => Sys2Proof.Machine.execEnableInt chip index data s
  | .disableInt chip index => Sys2Proof.Machine.execDisableInt chip index s
  | .clearInt chip index => Sys2Proof.Machine.execClearInt chip index s
  | .getInt chip => Sys2Proof.Machine.execGetInt chip s
  | .waitInt chip => Sys2Proof.Machine.execWaitInt chip s
  | .clearIntId chip index => Sys2Proof.Machine.execClearIntId chip index s
  | .lockPort chip index => Sys2Proof.Machine.execLockPort chip index s
  | .unlockPort chip index => Sys2Proof.Machine.execUnlockPort chip index s

end Sys2Proof.Machine
end

