-- ==== Sys2Proof/Machine/Step.lean ====
section
/-! DEFINITION. One step of the machine: the next move of the agenda, or a freely chosen one where none
is planned (R11, R52).  Everything a move does stands in the files before this one. -/

namespace Sys2Proof.Machine

/-- What one move does (R11, R255, R267, R273). -/
def fire (e : Config.Event) (s : State) : Host.Outcome State Fault Refusal :=
  match e with
  | .command k w =>
    match decode w with
    | .ok i => exec i { s with cur := k }
    | .error _ => rejectWord k s
  | .issue k w =>
    match decode w with
    | .ok i => issueOnly k i s
    | .error _ => rejectWord k s
  | .consumer k => .next (consumerStep k s)
  | .iss c => .next (issStep c s)
  | .envSet c p v => envSet c p v s
  | .envWake c => envWake c s
  | .reset => envReset s

/-- A freely chosen move: where the spec has no such step in this state, nothing happens and the next
choice is another one (log entry 2). -/
def fireChosen (e : Config.Event) (s : State) : Host.Outcome State Fault Refusal :=
  match fire e s with
  | .next t => .next t
  | .fault f => .fault f
  | .refused _ => .next s

/-- One step.  Nothing is defined for a configuration that breaks R61. -/
def step (s : State) : Host.Outcome State Fault Refusal :=
  if legalBoard s.cfg then
    match s.agenda with
    | e :: rest => fire e { s with agenda := rest }
    | [] => fireChosen (Config.nextEvent s.clock) { s with clock := s.clock + 1 }
  else .refused .badConfiguration

/-- The state whose next step is a consumer with nothing in flight presenting the command word with
the given bits: a program comes to run only by being presented from outside (log entry 16).  A number
that is no 24-bit word presents nothing. -/
def State.withFetchWord (s : State) (nbits w : Nat) : State :=
  match tableWord nbits w with
  | some v => { s with agenda := .command (freeConsumer s) v :: s.agenda }
  | none => s

end Sys2Proof.Machine
end

