-- ==== Sys2Proof/Safety.lean ====
section
/-! DEFINITION. What claims about safe runs are stated in: the invariants of a chip (R23, R35, R39, R42,
R219), the lock discipline (R77, R80), who is in the waiter sets (R42, R211), runs and weak fairness
(R78). -/

namespace Sys2Proof.Safety

open Sys2Proof.Machine

/-! ### One chip -/

/-- The image equals the output register (R23). -/
abbrev ImageMatches (ch : Chip) : Prop := ch.img = ch.out

/-- At most 1024 unread events, and `QIN == (QOUT + QCNT) % 1024` (R38, R39). -/
abbrev QueueConsistent (ch : Chip) : Prop :=
  ch.qcnt.toNat ≤ 1024 ∧ ch.qin = ch.qout + ch.qcnt.setWidth 10

/-- The event buffer's list is in its canonical form. -/
abbrev BufferCanonical (ch : Chip) : Prop := Memory.wf ch.buf

/-- No latch of a disabled bit is set (R31, R35). -/
abbrev LatchesEnabled (ch : Chip) : Prop :=
  ∀ i, i < 3 → bankRead ch.intId i 0 &&& ~~~bankRead ch.enab i 0 = 0

/-- `WAITERS` and `WOKEN` are sets, and `WOKEN` is a subset of `WAITERS` (R42). -/
abbrev WaitersCanonical (ch : Chip) : Prop :=
  ch.waiters.Pairwise (· < ·) ∧ ch.woken.Pairwise (· < ·) ∧ ∀ k ∈ ch.woken, k ∈ ch.waiters

/-- The sequencer's result is a bit number 1..24, or 0 where POLL can still say none (R183, R215). -/
abbrev IssResultInRange (iss : Iss) : Prop :=
  (iss.upc = 8 ∨ iss.upc = 9 ∨ iss.upc = 17 → iss.tmp.r.toNat ≤ 24) ∧
  ((10 ≤ iss.upc.toNat ∧ iss.upc.toNat ≤ 16) ∨ (18 ≤ iss.upc.toNat ∧ iss.upc.toNat ≤ 20) →
    1 ≤ iss.tmp.r.toNat ∧ iss.tmp.r.toNat ≤ 24)

/-- Every unread slot holds an event 1..24 (R36, R219). -/
def UnreadInRange (ch : Chip) : Prop :=
  ∀ j, j < ch.qcnt.toNat →
    ∃ e, memRead? ch.buf (ch.qout + BitVec.ofNat 10 j).toNat = some e ∧
      1 ≤ e.toNat ∧ e.toNat ≤ 24

/-- The queue holds events only, and what the sequencer is about to push is one (R39, R219). -/
def EventsInRange (ch : Chip) : Prop :=
  QueueConsistent ch ∧ IssResultInRange ch.iss ∧ UnreadInRange ch

/-- A property of every chip slot of the machine. -/
def EveryChip (P : Chip → Prop) (s : State) : Prop := ∀ c, c ∈ slotNumbers → P (s.chip c)

/-- The unread events, oldest first (R39). -/
def unread (ch : Chip) : List EventNo :=
  (List.range ch.qcnt.toNat).map fun j =>
    (memRead? ch.buf (ch.qout + BitVec.ofNat 10 j).toNat).getD 0

/-- The latch of I/O bit `b` is set (R32). -/
abbrev Latched (ch : Chip) (b : Nat) : Prop :=
  (bankRead ch.intId ((b - 1) / 8) 0).getLsbD ((b - 1) % 8) = true

/-- No latch of the chip is set (R33, R34). -/
abbrev NothingLatched (ch : Chip) : Prop := ∀ i, i < 3 → bankRead ch.intId i 0 = 0

/-- `b` is the lowest-numbered latched bit of the chip (R184). -/
abbrev LowestLatched (ch : Chip) (b : Nat) : Prop :=
  1 ≤ b ∧ b ≤ 24 ∧ Latched ch b ∧ ∀ a, a < b → 1 ≤ a → ¬Latched ch a

/-- The consumer at the command port has nothing in flight, and chip `c` is present: what an issue needs
besides a valid index (R255). -/
abbrev Ready (s : State) (c : Nat) : Prop := s.busy s.cur = false ∧ s.present c = true

/-! ### Who holds which lock -/

/-- The steps before which a command holds `WLOCK` (R80): after its `Acquire`, up to its `Release`. -/
def holdsWindow (irqMode : Bool) (i : Instr) (upc : Nat) : Bool :=
  match i with
  | .readPort _ _ => false
  | .writePort _ _ _ => 2 ≤ upc && upc ≤ 3
  | .readBit _ _ => false
  | .writeBit _ _ _ => 2 ≤ upc && upc ≤ 3
  | .setBit _ _ => 2 ≤ upc && upc ≤ 3
  | .clrBit _ _ => 2 ≤ upc && upc ≤ 3
  | .enableInt _ _ _ => 2 ≤ upc && upc ≤ 12
  | .disableInt _ _ => 2 ≤ upc && upc ≤ 8
  | .clearInt _ _ => 2 ≤ upc && upc ≤ 9
  | .getInt _ => !irqMode && (2 ≤ upc && upc ≤ 17)
  | .waitInt _ => !irqMode && ((2 ≤ upc && upc ≤ 17) || (25 ≤ upc && upc ≤ 40))
  | .clearIntId _ _ => 2 ≤ upc && upc ≤ 7
  | .lockPort _ _ => 2 ≤ upc && upc ≤ 4
  | .unlockPort _ _ => 2 ≤ upc && upc ≤ 4

/-- The steps before which a command holds `QLOCK` (R82). -/
def holdsQueue (irqMode : Bool) (i : Instr) (upc : Nat) : Bool :=
  match i with
  | .getInt _ => irqMode && (2 ≤ upc && upc ≤ 3)
  | .waitInt _ =>
    if irqMode then (2 ≤ upc && upc ≤ 3) || (5 ≤ upc && upc ≤ 6)
    else (19 ≤ upc && upc ≤ 20) || (22 ≤ upc && upc ≤ 23)
  | .readPort _ _ => false
  | .writePort _ _ _ => false
  | .readBit _ _ => false
  | .writeBit _ _ _ => false
  | .setBit _ _ => false
  | .clrBit _ _ => false
  | .enableInt _ _ _ => false
  | .disableInt _ _ => false
  | .clearInt _ _ => false
  | .clearIntId _ _ => false
  | .lockPort _ _ => false
  | .unlockPort _ _ => false

/-- The steps before which the sequencer holds `WLOCK` (R215). -/
def issHoldsWindow (upc : Nat) : Bool := 2 ≤ upc && upc ≤ 17

/-- The steps before which the sequencer holds `QLOCK` (R215). -/
def issHoldsQueue (upc : Nat) : Bool := 19 ≤ upc && upc ≤ 20

/-- Consumer `k` has a command on chip `c` in flight that stands where `held` says. -/
def commandStands (held : Bool → Instr → Nat → Bool) (s : State) (c k : Nat) : Prop :=
  ∃ r i, s.flight k = some r ∧ commandOf r = some i ∧ i.chipField = c ∧
    held (s.irqMode c) i r.upc.toNat = true

/-- Each lock of chip `c` is held by exactly the agent whose micro-program stands between its `Acquire`
and its `Release`, and is free where none does (R40, R76, R77). -/
structure LocksOf (s : State) (c : Nat) : Prop where
  windowConsumer : ∀ k, (s.chip c).wlock = some (.consumer k) ↔ commandStands holdsWindow s c k
  windowIss : (s.chip c).wlock = some .iss ↔
    s.irqMode c = true ∧ issHoldsWindow (s.chip c).iss.upc.toNat = true
  queueConsumer : ∀ k, (s.chip c).qlock = some (.consumer k) ↔ commandStands holdsQueue s c k
  queueIss : (s.chip c).qlock = some .iss ↔
    s.irqMode c = true ∧ issHoldsQueue (s.chip c).iss.upc.toNat = true

/-- The lock discipline of the whole board. -/
def LocksHeld (s : State) : Prop := ∀ c, s.present c = true → LocksOf s c

/-! ### Who waits -/

/-- A WAIT_INT's record stands where its consumer is in `WAITERS` (R42, R211): after the join and before
the leave. -/
def standsWaiting (irqMode : Bool) (r : InFlight) : Bool :=
  if irqMode then (r.upc == 3 && r.tmp.r == 0) || r.upc == 4 || r.upc == 5
  else r.upc == 20 || r.upc == 21 || r.upc == 22

/-- `WAITERS[c]` holds exactly the consumers whose WAIT_INT on chip `c` stands between join and leave
(R42, R269). -/
def WaitersExact (s : State) : Prop :=
  ∀ c, s.present c = true → ∀ k, k ∈ (s.chip c).waiters ↔
    ∃ r, s.flight k = some r ∧ commandOf r = some (.waitInt c) ∧
      standsWaiting (s.irqMode c) r = true

/-! ### Commands in flight -/

/-- The number of step positions of a command's micro-program (R50 and the rules of files 40 to 44). -/
def lastStep (irqMode : Bool) : Instr → Nat
  | .readPort _ _ => 1
  | .writePort _ _ _ => 3
  | .readBit _ _ => 1
  | .writeBit _ _ _ => 3
  | .setBit _ _ => 3
  | .clrBit _ _ => 3
  | .enableInt _ _ _ => 12
  | .disableInt _ _ => 8
  | .clearInt _ _ => 9
  | .getInt _ => if irqMode then 3 else 17
  | .waitInt _ => if irqMode then 6 else 40
  | .clearIntId _ _ => 7
  | .lockPort _ _ => 4
  | .unlockPort _ _ => 4

/-- An accepted command passed the checks of its issue and stands at a step of its micro-program (R50,
R255, R256). -/
def FlightValid (s : State) : Prop :=
  cellsWf s.inflight ∧
    ∀ k r, s.flight k = some r →
      ∃ i, commandOf r = some i ∧ issueFault i s = none ∧ 1 ≤ r.upc.toNat ∧
        r.upc.toNat ≤ lastStep (s.irqMode i.chipField) i

/-! ### Runs -/

/-- The move a step takes. -/
def nextMove (s : State) : Config.Event :=
  match s.agenda with
  | e :: _ => e
  | [] => Config.nextEvent s.clock

/-- An unending run of the machine. -/
def IsRun (run : Nat → State) : Prop := ∀ n, step (run n) = .next (run (n + 1))

/-- Weak fairness (R78): an agent whose next step stays enabled for ever takes a step again and
again. -/
def WeaklyFair (run : Nat → State) : Prop :=
  (∀ k, (∃ n, ∀ m, n ≤ m → consumerMicro k (run m) ≠ .wait) →
    ∀ n, ∃ m, n ≤ m ∧ nextMove (run m) = .consumer k) ∧
  ∀ c, (∃ n, ∀ m, n ≤ m → issMicro c (run m) ≠ .wait) →
    ∀ n, ∃ m, n ≤ m ∧ nextMove (run m) = .iss c

/-- `n` steps of `ISS[c]`, no other agent stepping between. -/
def issRun (c : Nat) : Nat → State → State
  | 0, s => s
  | n + 1, s => issRun c n (issStep c s)

/-- `n` steps of consumer `k`'s command, no other agent stepping between. -/
def consumerRun (k : Nat) : Nat → State → State
  | 0, s => s
  | n + 1, s => consumerRun k n (consumerStep k s)

end Sys2Proof.Safety
end

