-- ==== Sys2Proof/Certificates/Slice0/Obligations.lean ====
section
/-! DEFINITION. The statements for the provers, in the order of the spec's files: encoding, issue and
faults, the commands, the detection hardware, the queue, the agents, reset, invariants, frames.  Each
docstring names the rules it formalises and the log entries it rests on.  A free value is always under an `∃`: no statement rests on
one. -/

open Sys2Proof Sys2Proof.Machine Sys2Proof.Safety

/-! ### Encoding -/

/-- R92, R100: decoding the word of a well-formed command gives the command back. -/
def Obligations.DecodeUndoesEncode : Prop :=
  ∀ i : Instr, WellFormed i → decode (encode i) = .ok i

/-- R92, R100: a word that decodes is the word of the command it decodes to, and the command is
well-formed. -/
def Obligations.EncodeUndoesDecode : Prop :=
  ∀ (w : CmdWord) (i : Instr), decode w = .ok i → WellFormed i ∧ encode i = w

/-- R99: a word decodes exactly when it matches a row of the opcode map. -/
def Obligations.LegalWordsAreTheMaps : Prop :=
  ∀ w : CmdWord, (∃ i, decode w = .ok i) ↔ legalWord w = true

/-- R90, R92, R96 on the words of 95_test_vectors.md V1. -/
def Obligations.SampleWordsDecode : Prop :=
  decode 0x110200#24 = .ok (.readPort 1 2) ∧ decode 0x2207C1#24 = .ok (.writePort 2 7 0xC1) ∧
  decode 0x333000#24 = .ok (.readBit 3 48) ∧ decode 0x711800#24 = .ok (.enableInt 1 24 0) ∧
  decode 0xB20000#24 = .ok (.waitInt 2) ∧ decode 0xE10200#24 = .ok (.unlockPort 1 2)

/-! ### Steps, issue and faults -/

/-- R11, R215, R255 and log entries 1 and 2: a step takes the first planned move off the agenda and does
it.  A consumer presenting a word that decodes: the command's meaning, with the consumer at the command
port.  A consumer's move: its command's next step.  A sequencer's move: its next step.  Where nothing is
planned, some move is done as if planned, or, where the spec has no such step, nothing happens; the
clock of free choices advances. -/
def Obligations.StepRunsDecodedCommand : Prop :=
  ∀ s : State, legalBoard s.cfg = true →
    (∀ k w i rest, s.agenda = .command k w :: rest → decode w = .ok i →
      step s = exec i { s with agenda := rest, cur := k }) ∧
    (∀ k rest, s.agenda = .consumer k :: rest →
      step s = .next (consumerStep k { s with agenda := rest })) ∧
    (∀ c rest, s.agenda = .iss c :: rest → step s = .next (issStep c { s with agenda := rest })) ∧
    (s.agenda = [] → ∃ e,
      (∃ t, step { s with agenda := [e], clock := s.clock + 1 } = .next t ∧ step s = .next t) ∨
      (∃ r, step { s with agenda := [e], clock := s.clock + 1 } = .refused r ∧
        step s = .next { s with clock := s.clock + 1 }))

/-- Log entry 16: with a command word placed, the next step runs that command, for a consumer that has
nothing in flight. -/
def Obligations.PlacedWordRunsNext : Prop :=
  ∀ (s : State) (w : CmdWord) (i : Instr),
    legalBoard s.cfg = true → decode w = .ok i →
    ∃ k, s.busy k = false ∧ step (s.withFetchWord 24 w.toNat) = exec i { s with cur := k }

/-- R250, R251: the words that decode to no command are those with a reserved opcode, a reserved bit set,
or a field the format does not use not zero; each answers ILLEGAL, `0x0300`, and nothing else happens;
by either way of presenting it. -/
def Obligations.IllegalWordAnswersIllegal : Prop :=
  ∀ w : CmdWord,
    let op := w.extractLsb' 20 4
    let bad := op = 0 ∨ op = 15 ∨ w.getLsbD 19 = true ∨ w.extractLsb' 14 2 ≠ 0 ∨
      (op ≠ 2 ∧ op ≠ 4 ∧ op ≠ 7 ∧ w.extractLsb' 0 8 ≠ 0) ∨
      ((op = 10 ∨ op = 11) ∧ w.extractLsb' 8 6 ≠ 0)
    (bad ↔ ∃ e, decode w = .error e) ∧
    ∀ (s : State) (k : Nat) (rest : List Config.Event), bad → legalBoard s.cfg = true →
      s.agenda = .command k w :: rest ∨ s.agenda = .issue k w :: rest → s.busy k = false →
      step s = .next { s with agenda := rest, responses := s.responses ++ [⟨k, 0x0300#16⟩] }

/-- R250, R252, R255: every command to no slot, or to a slot that is not present, answers UNAVAILABLE,
`0x0100`, and nothing else happens, whatever its index. -/
def Obligations.AbsentChipAnswersUnavailable : Prop :=
  ∀ (s : State) (i : Instr), s.busy s.cur = false →
    i.chipField ∉ [1, 2, 3, 4] ∨ (slotOf s.cfg i.chipField).base = 0 ∨
      (slotOf s.cfg i.chipField).claimOk = false →
    exec i s = .next { s with responses := s.responses ++ [⟨s.cur, 0x0100#16⟩] }

/-- R250, R253: a command whose index is outside its range, on a present chip, answers INDEX_FAULT,
`0x0200`, and nothing else happens. -/
def Obligations.BadIndexAnswersIndexFault : Prop :=
  ∀ (s : State) (c x : Nat) (v : Byte), Ready s c →
    let faults := fun i => exec i s = .next { s with responses := s.responses ++ [⟨s.cur, 0x0200#16⟩] }
    (7 < x → faults (.readPort c x) ∧ faults (.writePort c x v)) ∧
    (x = 0 ∨ 48 < x →
      faults (.readBit c x) ∧ faults (.writeBit c x v) ∧ faults (.setBit c x) ∧ faults (.clrBit c x)) ∧
    (x = 0 ∨ 24 < x →
      faults (.enableInt c x v) ∧ faults (.disableInt c x) ∧ faults (.clearInt c x)) ∧
    (2 < x → faults (.clearIntId c x)) ∧
    (5 < x → faults (.lockPort c x) ∧ faults (.unlockPort c x))

/-- R50, R252, R253, R255, D1, log entry 14: the issue step alone creates the in-flight record, with the
word, `upc` 1 and temporaries of which nothing is said, and does nothing else; to an absent chip it answers
`0x0100`, else with an index out of range `0x0200`; a consumer that has a command in flight issues none
(refused). -/
def Obligations.IssueCreatesRecord : Prop :=
  ∀ (s : State) (k : Nat) (w : CmdWord) (i : Instr) (rest : List Config.Event),
    legalBoard s.cfg = true → s.agenda = .issue k w :: rest → decode w = .ok i →
    (s.busy k = false → s.present i.chipField = true → indexOk i = true →
      ∃ tmp, step s = .next (({ s with agenda := rest } : State).setFlight k ⟨w, 1, tmp⟩)) ∧
    (s.busy k = false → s.present i.chipField = false →
      step s = .next { s with agenda := rest, responses := s.responses ++ [⟨k, 0x0100#16⟩] }) ∧
    (s.busy k = false → s.present i.chipField = true → indexOk i = false →
      step s = .next { s with agenda := rest, responses := s.responses ++ [⟨k, 0x0200#16⟩] }) ∧
    (s.busy k = true → step s = .refused .consumerBusy)

/-- R11, R50, R83, log entries 1 and 2: a command run by its consumer alone is its issue step followed by the
consumer's own steps, one at a time (40, the longest micro-program, are enough; steps that are not
enabled change nothing). -/
def Obligations.CommandIsItsSteps : Prop :=
  ∀ (s : State) (i : Instr), s.busy s.cur = false → s.present i.chipField = true → indexOk i = true →
    ∃ u, issueOnly s.cur i s = .next u ∧ exec i s = .next (consumerRun s.cur 40 u)

/-- R76, R80, R82, log entry 1: while another agent holds the lock a command takes first, the command is
accepted and waits before its step 1 (its temporaries hold nothing that is said), and nothing else
changes. -/
def Obligations.HeldLockMakesCommandWait : Prop :=
  ∀ (s : State) (i : Instr), Ready s i.chipField → indexOk i = true →
    (holdsWindow (s.irqMode i.chipField) i 2 = true ∧ (s.chip i.chipField).wlock ≠ none) ∨
      (holdsQueue (s.irqMode i.chipField) i 2 = true ∧ (s.chip i.chipField).qlock ≠ none) →
    ∃ tmp, exec i s = .next (s.setFlight s.cur ⟨encode i, 1, tmp⟩)

/-! ### READ_PORT, WRITE_PORT -/

/-- R33, R120, R131: READ_PORT answers the line levels of a data port; at offset 6 a byte whose bit `i`,
for `i` in 0..2, says whether port `i` has a latch set; the page/lock register at offset 7; nothing the
spec names changes. -/
def Obligations.ReadPortAnswersRegister : Prop :=
  ∀ (s : State) (c : Nat), Ready s c →
    let ch := s.chip c
    (∀ p, p ≤ 5 → exec (.readPort c p) s =
      .next (s.deliver s.cur .ok (bankRead ch.out p 0 ||| bankRead ch.ext p 0))) ∧
    exec (.readPort c 7) s = .next (s.deliver s.cur .ok (ch.page ++ ch.lock)) ∧
    ∃ v n, (∀ i, i < 3 → v.getLsbD i = (bankRead ch.intId i 0 != 0)) ∧
      exec (.readPort c 6) s = .next ((s.setChip c { ch with draws := n }).deliver s.cur .ok v)

/-- R121, R133, R135, R173: WRITE_PORT to an unlocked data port sets output register and image, latches
the enabled bits whose line made their edge, answers OK, and changes nothing else. -/
def Obligations.WritePortWritesDataPort : Prop :=
  ∀ (s : State) (c p : Nat) (v : Byte), Ready s c → p ≤ 5 → (s.chip c).wlock = none →
    (s.chip c).lock.getLsbD p = false →
    let ch := s.chip c
    let old := bankRead ch.out p 0 ||| bankRead ch.ext p 0
    let new := v ||| bankRead ch.ext p 0
    let en := bankRead ch.enab p 0
    let po := bankRead ch.pol p 0
    let set := en &&& ((po &&& (~~~old &&& new)) ||| (~~~po &&& (old &&& ~~~new)))
    exec (.writePort c p v) s =
      .next ((s.setChip c
        { ch with
          out := bankWrite ch.out p v
          img := bankWrite ch.img p v
          intId := if p ≤ 2 then bankWrite ch.intId p (bankRead ch.intId p 0 ||| set)
            else ch.intId }).deliver s.cur .ok 0)

/-- R134 (a), (b), (c): WRITE_PORT to a locked data port and to offset 6 answers OK and changes nothing;
to offset 7 it replaces page and lock bits. -/
def Obligations.WritePortElsewhere : Prop :=
  ∀ (s : State) (c : Nat) (v : Byte), Ready s c → (s.chip c).wlock = none →
    (∀ p, p ≤ 5 → (s.chip c).lock.getLsbD p = true →
      exec (.writePort c p v) s = .next (s.deliver s.cur .ok 0)) ∧
    exec (.writePort c 6 v) s = .next (s.deliver s.cur .ok 0) ∧
    exec (.writePort c 7 v) s =
      .next ((s.setChip c
        { s.chip c with page := v.extractLsb' 6 2, lock := v.extractLsb' 0 6 }).deliver s.cur .ok 0)

/-! ### Bit commands -/

/-- R151: READ_BIT answers the level of the bit's line, 0 or 1, and changes nothing. -/
def Obligations.ReadBitAnswersLine : Prop :=
  ∀ (s : State) (c b : Nat), Ready s c → 1 ≤ b → b ≤ 48 →
    let ch := s.chip c
    let level := bankRead ch.out ((b - 1) / 8) 0 ||| bankRead ch.ext ((b - 1) / 8) 0
    exec (.readBit c b) s =
      .next (s.deliver s.cur .ok (if level.getLsbD ((b - 1) % 8) then 1 else 0))

/-- R152, R153, R154, R155: the bit commands write the image's byte with the one bit set or cleared to
output register and image, latch an edge, answer OK and change nothing else; on a locked port they
change nothing at all. -/
def Obligations.BitWritesMergeImage : Prop :=
  ∀ (s : State) (c b : Nat) (v : Byte), Ready s c → 1 ≤ b → b ≤ 48 → (s.chip c).wlock = none →
    let ch := s.chip c
    let p := (b - 1) / 8
    let m := 1#8 <<< ((b - 1) % 8)
    let after := fun on : Bool =>
      let n := if on then bankRead ch.img p 0 ||| m else bankRead ch.img p 0 &&& ~~~m
      let old := bankRead ch.out p 0 ||| bankRead ch.ext p 0
      let new := n ||| bankRead ch.ext p 0
      let en := bankRead ch.enab p 0
      let po := bankRead ch.pol p 0
      let set := en &&& ((po &&& (~~~old &&& new)) ||| (~~~po &&& (old &&& ~~~new)))
      (if ch.lock.getLsbD p then s
        else s.setChip c
          { ch with
            out := bankWrite ch.out p n
            img := bankWrite ch.img p n
            intId := if p ≤ 2 then bankWrite ch.intId p (bankRead ch.intId p 0 ||| set)
              else ch.intId }).deliver s.cur .ok 0
    exec (.writeBit c b v) s = .next (after (v != 0)) ∧
    exec (.setBit c b) s = .next (after true) ∧
    exec (.clrBit c b) s = .next (after false)

/-! ### Interrupt commands -/

/-- R178: ENABLE_INT sets the enable bit, sets or clears the polarity bit, leaves the idle page selected,
answers OK and changes nothing else (`LatchesEnabled` is an invariant, stated below). -/
def Obligations.EnableIntArmsBit : Prop :=
  ∀ (s : State) (c b : Nat) (v : Byte), Ready s c → 1 ≤ b → b ≤ 24 → (s.chip c).wlock = none →
    LatchesEnabled (s.chip c) →
    let ch := s.chip c
    let i := (b - 1) / 8
    let m := 1#8 <<< ((b - 1) % 8)
    exec (.enableInt c b v) s =
      .next ((s.setChip c
        { ch with
          page := 0
          enab := bankWrite ch.enab i (bankRead ch.enab i 0 ||| m)
          pol := bankWrite ch.pol i
            (if v ≠ 0 then bankRead ch.pol i 0 ||| m else bankRead ch.pol i 0 &&& ~~~m)
        }).deliver s.cur .ok 0)

/-- R179: DISABLE_INT clears the enable bit and the latch, leaves the idle page selected, answers OK and
changes nothing else. -/
def Obligations.DisableIntDisarmsBit : Prop :=
  ∀ (s : State) (c b : Nat), Ready s c → 1 ≤ b → b ≤ 24 → (s.chip c).wlock = none →
    LatchesEnabled (s.chip c) →
    let ch := s.chip c
    let i := (b - 1) / 8
    let m := 1#8 <<< ((b - 1) % 8)
    exec (.disableInt c b) s =
      .next ((s.setChip c
        { ch with
          page := 0
          enab := bankWrite ch.enab i (bankRead ch.enab i 0 &&& ~~~m)
          intId := bankWrite ch.intId i (bankRead ch.intId i 0 &&& ~~~m) }).deliver s.cur .ok 0)

/-- R180, R181: CLEAR_INT clears the latch and leaves the bit enabled, whether it was before or not;
answers OK and changes nothing else but the page, which is the idle one. -/
def Obligations.ClearIntClearsLatch : Prop :=
  ∀ (s : State) (c b : Nat), Ready s c → 1 ≤ b → b ≤ 24 → (s.chip c).wlock = none →
    LatchesEnabled (s.chip c) →
    let ch := s.chip c
    let i := (b - 1) / 8
    let m := 1#8 <<< ((b - 1) % 8)
    exec (.clearInt c b) s =
      .next ((s.setChip c
        { ch with
          page := 0
          enab := bankWrite ch.enab i (bankRead ch.enab i 0 ||| m)
          intId := bankWrite ch.intId i (bankRead ch.intId i 0 &&& ~~~m) }).deliver s.cur .ok 0)

/-- R175, R182: CLEAR_INT_ID clears all eight latches of the port, leaves the idle page selected, answers
OK and changes nothing else. -/
def Obligations.ClearIntIdClearsPort : Prop :=
  ∀ (s : State) (c p : Nat), Ready s c → p ≤ 2 → (s.chip c).wlock = none →
    exec (.clearIntId c p) s =
      .next ((s.setChip c
        { s.chip c with page := 0, intId := bankWrite (s.chip c).intId p 0 }).deliver s.cur .ok 0)

/-! ### Port locks -/

/-- R241: LOCK_PORT sets the port's lock bit, answers OK and changes nothing else, the page neither. -/
def Obligations.LockPortSetsBit : Prop :=
  ∀ (s : State) (c p : Nat), Ready s c → p ≤ 5 → (s.chip c).wlock = none →
    exec (.lockPort c p) s =
      .next ((s.setChip c
        { s.chip c with lock := (s.chip c).lock ||| 1#6 <<< p }).deliver s.cur .ok 0)

/-- R242: UNLOCK_PORT clears the port's lock bit, answers OK and changes nothing else, the page
neither. -/
def Obligations.UnlockPortClearsBit : Prop :=
  ∀ (s : State) (c p : Nat), Ready s c → p ≤ 5 → (s.chip c).wlock = none →
    exec (.unlockPort c p) s =
      .next ((s.setChip c
        { s.chip c with lock := (s.chip c).lock &&& ~~~(1#6 <<< p) }).deliver s.cur .ok 0)

/-! ### GET_INT, WAIT_INT -/

/-- R202, R210: GET_INT of an IRQ-driven chip pops the oldest event and answers it, or answers 0 on an
empty queue; nothing else changes. -/
def Obligations.GetIntBufferedPops : Prop :=
  ∀ (s : State) (c : Nat), Ready s c → s.irqMode c = true → (s.chip c).qlock = none →
    let ch := s.chip c
    (∀ e, ch.qcnt ≠ 0 → memRead? ch.buf ch.qout.toNat = some e →
      exec (.getInt c) s =
        .next ((s.setChip c { ch with qout := ch.qout + 1, qcnt := ch.qcnt - 1 }).deliver s.cur .ok
          (e.setWidth 8))) ∧
    (ch.qcnt = 0 → exec (.getInt c) s = .next (s.deliver s.cur .ok 0))

/-- R183, R184, R185, R210: GET_INT of a polled chip answers the lowest latched bit, clears its latch and
leaves it enabled, with the idle page selected; or answers 0 where nothing is latched. -/
def Obligations.GetIntPolledServices : Prop :=
  ∀ (s : State) (c : Nat), Ready s c → s.irqMode c = false → (s.chip c).wlock = none →
    LatchesEnabled (s.chip c) →
    let ch := s.chip c
    (∀ b, LowestLatched ch b →
      ∃ n, exec (.getInt c) s =
        .next ((s.setChip c
          { ch with
            page := 0
            intId := bankWrite ch.intId ((b - 1) / 8)
              (bankRead ch.intId ((b - 1) / 8) 0 &&& ~~~(1#8 <<< ((b - 1) % 8)))
            draws := n }).deliver s.cur .ok (BitVec.ofNat 8 b))) ∧
    (NothingLatched ch →
      ∃ n, exec (.getInt c) s = .next ((s.setChip c { ch with draws := n }).deliver s.cur .ok 0))

/-- R211, log entry 1: WAIT_INT of an IRQ-driven chip answers the oldest event without waiting; on an empty
queue the consumer joins `WAITERS` and is blocked before step 4, holding no lock. -/
def Obligations.WaitIntBufferedAnswersOrBlocks : Prop :=
  ∀ (s : State) (c : Nat), Ready s c → s.irqMode c = true → (s.chip c).qlock = none →
    let ch := s.chip c
    (∀ e, ch.qcnt ≠ 0 → memRead? ch.buf ch.qout.toNat = some e → e ≠ 0 →
      exec (.waitInt c) s =
        .next ((s.setChip c { ch with qout := ch.qout + 1, qcnt := ch.qcnt - 1 }).deliver s.cur .ok
          (e.setWidth 8))) ∧
    (ch.qcnt = 0 → s.cur ∉ ch.woken →
      ∃ tmp, exec (.waitInt c) s =
        .next ((s.setChip c { ch with waiters := idsInsert s.cur ch.waiters }).setFlight s.cur
          ⟨encode (.waitInt c), 4, tmp⟩))

/-- R211, log entry 1: WAIT_INT of a polled chip services a latched bit at once; where nothing is latched
the consumer joins `WAITERS` and is blocked before step 21, holding no lock, or, while another agent
holds the queue lock, waits for it before step 18, the window released. -/
def Obligations.WaitIntPolledAnswersOrBlocks : Prop :=
  ∀ (s : State) (c : Nat), Ready s c → s.irqMode c = false → (s.chip c).wlock = none →
    LatchesEnabled (s.chip c) →
    let ch := s.chip c
    (∀ b, LowestLatched ch b →
      ∃ n, exec (.waitInt c) s =
        .next ((s.setChip c
          { ch with
            page := 0
            intId := bankWrite ch.intId ((b - 1) / 8)
              (bankRead ch.intId ((b - 1) / 8) 0 &&& ~~~(1#8 <<< ((b - 1) % 8)))
            draws := n }).deliver s.cur .ok (BitVec.ofNat 8 b))) ∧
    (NothingLatched ch → ch.qlock = none → s.cur ∉ ch.woken →
      ∃ n tmp, exec (.waitInt c) s =
        .next ((s.setChip c
          { ch with waiters := idsInsert s.cur ch.waiters, draws := n }).setFlight s.cur
            ⟨encode (.waitInt c), 21, tmp⟩)) ∧
    (NothingLatched ch → ch.qlock ≠ none →
      ∃ n tmp, exec (.waitInt c) s =
        .next ((s.setChip c { ch with draws := n }).setFlight s.cur ⟨encode (.waitInt c), 18, tmp⟩))

/-- R211 steps 4 to 6, R212 (a), R269: a consumer blocked on an IRQ-driven chip that was woken, or finds
the queue non-empty, leaves both sets in three steps and answers the oldest event, or 0. -/
def Obligations.WokenWaiterAnswers : Prop :=
  ∀ (s : State) (k c : Nat) (tmp : Temps), s.flight k = some ⟨encode (.waitInt c), 4, tmp⟩ →
    s.present c = true → s.irqMode c = true → (s.chip c).qlock = none →
    let ch := s.chip c
    let ch' := { ch with waiters := idsRemove k ch.waiters, woken := idsRemove k ch.woken }
    (ch.qcnt = 0 → k ∈ ch.woken →
      consumerRun k 3 s = ((s.setChip c ch').endFlight k).deliver k .ok 0) ∧
    (∀ e, ch.qcnt ≠ 0 → memRead? ch.buf ch.qout.toNat = some e →
      consumerRun k 3 s =
        ((s.setChip c { ch' with qout := ch.qout + 1, qcnt := ch.qcnt - 1 }).endFlight k).deliver k
          .ok (e.setWidth 8))

/-- R211 steps 21 to 40, R212 (d), R269: a consumer blocked on a polled chip that was woken leaves both
sets, services once more, and answers the lowest latched bit, or 0 (20 of its own steps are enough). -/
def Obligations.WokenPolledWaiterAnswers : Prop :=
  ∀ (s : State) (k c : Nat) (tmp : Temps), s.flight k = some ⟨encode (.waitInt c), 21, tmp⟩ →
    s.present c = true → s.irqMode c = false → (s.chip c).qlock = none → (s.chip c).wlock = none →
    k ∈ (s.chip c).woken → LatchesEnabled (s.chip c) →
    let ch := s.chip c
    let ch' := { ch with waiters := idsRemove k ch.waiters, woken := idsRemove k ch.woken }
    (∀ b, LowestLatched ch b →
      ∃ n, consumerRun k 20 s =
        ((s.setChip c
          { ch' with
            page := 0
            intId := bankWrite ch.intId ((b - 1) / 8)
              (bankRead ch.intId ((b - 1) / 8) 0 &&& ~~~(1#8 <<< ((b - 1) % 8)))
            draws := n }).endFlight k).deliver k .ok (BitVec.ofNat 8 b)) ∧
    (NothingLatched ch →
      ∃ n, consumerRun k 20 s =
        ((s.setChip c { ch' with draws := n }).endFlight k).deliver k .ok 0)

/-- R211 steps 4 and 21, R269: a consumer blocked on a present chip has no enabled step until it is woken
or, in IRQ-driven mode, the queue is not empty; a step that is not enabled leaves the state as it is
(log entry 2). -/
def Obligations.UnwokenWaiterStays : Prop :=
  ∀ (s : State) (k c : Nat) (tmp : Temps), s.present c = true →
    (s.irqMode c = true ∧ s.flight k = some ⟨encode (.waitInt c), 4, tmp⟩ ∧ (s.chip c).qcnt = 0) ∨
      (s.irqMode c = false ∧ s.flight k = some ⟨encode (.waitInt c), 21, tmp⟩) →
    k ∉ (s.chip c).woken → consumerStep k s = s

/-! ### Detection hardware and bus accesses -/

/-- R173: capture sets the latch of exactly the enabled bits whose line made the edge their polarity
selects, keeps every latch already set, and changes nothing else. -/
def Obligations.CaptureLatchesQualifyingEdges : Prop :=
  ∀ (ch : Chip) (i : Nat) (old new : Byte), i ≤ 2 →
    (∃ l, capture i old new ch = { ch with intId := l }) ∧
    (∀ q, q ≠ i → bankRead (capture i old new ch).intId q 0 = bankRead ch.intId q 0) ∧
    ∀ j, j < 8 →
      (bankRead (capture i old new ch).intId i 0).getLsbD j =
        ((bankRead ch.intId i 0).getLsbD j ||
          ((bankRead ch.enab i 0).getLsbD j &&
            (((bankRead ch.pol i 0).getLsbD j && !old.getLsbD j && new.getLsbD j) ||
              (!(bankRead ch.pol i 0).getLsbD j && old.getLsbD j && !new.getLsbD j))))

/-- R174: a bus write to an enable register stores the byte, clears the latch of every bit written 0 and
keeps the latches of the bits written 1. -/
def Obligations.EnableWriteClearsLatches : Prop :=
  ∀ (ch : Chip) (i : Nat) (v : Byte), i ≤ 2 → ch.page = 2 →
    (∃ l, ioWrite (8 + i) v ch = { ch with enab := bankWrite ch.enab i v, intId := l }) ∧
    (∀ q, q ≠ i → bankRead (ioWrite (8 + i) v ch).intId q 0 = bankRead ch.intId q 0) ∧
    ∀ j, j < 8 →
      (bankRead (ioWrite (8 + i) v ch).intId i 0).getLsbD j =
        ((bankRead ch.intId i 0).getLsbD j && v.getLsbD j)

/-- R70, R175, R176: a write to an interrupt-ID register clears its eight latches whatever the data; no
bus read, no write to offset 6 or 7, to a polarity register, to a paged offset in page 0, or to a data
port that changes no line of an enabled bit touches a latch; the pending summary's bit `i` says whether
port `i` has a latch set, and the interrupt request whether any has (R33, R34). -/
def Obligations.LatchesChangeOnlyAsNamed : Prop :=
  ∀ (ch : Chip) (v : Byte),
    (∀ i, i ≤ 2 → ch.page = 3 →
      ioWrite (8 + i) v ch = { ch with intId := bankWrite ch.intId i 0 }) ∧
    (∀ off, (afterRead off ch).intId = ch.intId) ∧
    (∀ off, off = 6 ∨ off = 7 → (ioWrite off v ch).intId = ch.intId) ∧
    (∀ i, i ≤ 2 → ch.page = 0 ∨ ch.page = 1 → (ioWrite (8 + i) v ch).intId = ch.intId) ∧
    (∀ p, p ≤ 5 →
      bankRead ch.enab p 0 &&& ((v ||| bankRead ch.ext p 0) ^^^
        (bankRead ch.out p 0 ||| bankRead ch.ext p 0)) = 0 →
      (ioWrite p v ch).intId = ch.intId) ∧
    (∀ i, i < 3 → (pend ch).getLsbD i = (bankRead ch.intId i 0 != 0)) ∧
    (irq ch = false ↔ NothingLatched ch)

/-- R123: SELECT leaves the page asked for selected, the lock bits as they were, and nothing else
changed. -/
def Obligations.SelectKeepsLockBits : Prop :=
  ∀ (ch : Chip) (c n n' : Nat) (pg : BitVec 2) (tmp tmp1 : Temps) (ch1 : Chip),
    selectRead c n tmp ch = .goto n tmp1 ch1 →
    ∃ tmp2, selectWrite pg n' tmp1 ch1 = .goto n' tmp2 { ch with page := pg }

/-- R26, R172, R173: `EnvSet` changes the external drive of one port, latches the enabled bits whose line
made their edge, and changes nothing else. -/
def Obligations.EnvSetDrivesLines : Prop :=
  ∀ (s : State) (c p : Nat) (v : Byte) (rest : List Config.Event),
    legalBoard s.cfg = true → s.agenda = .envSet c p v :: rest → s.present c = true → p ≤ 5 →
    let ch := s.chip c
    let old := bankRead ch.out p 0 ||| bankRead ch.ext p 0
    let new := bankRead ch.out p 0 ||| v
    let en := bankRead ch.enab p 0
    let po := bankRead ch.pol p 0
    let set := en &&& ((po &&& (~~~old &&& new)) ||| (~~~po &&& (old &&& ~~~new)))
    step s =
      .next (({ s with agenda := rest } : State).setChip c
        { ch with
          ext := bankWrite ch.ext p v
          intId := if p ≤ 2 then bankWrite ch.intId p (bankRead ch.intId p 0 ||| set)
            else ch.intId })

/-- R213, R216: `EnvWake` releases every consumer then blocked on the chip and does nothing else. -/
def Obligations.EnvWakeReleasesWaiters : Prop :=
  ∀ (s : State) (c : Nat) (rest : List Config.Event),
    legalBoard s.cfg = true → s.agenda = .envWake c :: rest → s.present c = true →
    step s =
      .next (({ s with agenda := rest } : State).setChip c
        { s.chip c with woken := (s.chip c).waiters })

/-- R61: in a legal configuration the host I/O address `base[c] + off` names offset `off` of the present
chip `c` and of no other. -/
def Obligations.WindowAddressesAreUnique : Prop :=
  ∀ (cfg : Config.Board) (c off : Nat), legalBoard cfg = true → presentIn cfg c = true → off ≤ 10 →
    windowOf cfg ((slotOf cfg c).base + BitVec.ofNat 16 off) = some (c, off)

/-! ### The queue -/

/-- R39, R201: PUSH writes the slot `QIN` names and advances `QIN`, and `QOUT` too where 1024 events are
unread, else the count; so it appends to the unread events, and where 1024 are unread the oldest is
dropped. -/
def Obligations.PushAppendsEvent : Prop :=
  ∀ (ch : Chip) (e : EventNo),
    push e ch =
      { ch with
        buf := memStore ch.buf ch.qin.toNat e
        qin := ch.qin + 1
        qout := if ch.qcnt = 1024 then ch.qout + 1 else ch.qout
        qcnt := if ch.qcnt = 1024 then ch.qcnt else ch.qcnt + 1 } ∧
    (QueueConsistent ch →
      QueueConsistent (push e ch) ∧
      unread (push e ch) =
        if ch.qcnt = 1024 then (unread ch).tail ++ [e] else unread ch ++ [e])

/-- R39, R202: POP yields the event in the slot `QOUT` names, advances `QOUT` and decrements the count, so
that it removes the oldest unread event; on an empty queue it yields 0 and changes nothing. -/
def Obligations.PopRemovesOldest : Prop :=
  ∀ (ch : Chip) (c : Nat),
    (∀ e, ch.qcnt ≠ 0 → memRead? ch.buf ch.qout.toNat = some e →
      popValue c ch = e ∧ popChip ch = { ch with qout := ch.qout + 1, qcnt := ch.qcnt - 1 } ∧
      (QueueConsistent ch →
        QueueConsistent (popChip ch) ∧ unread ch = e :: unread (popChip ch))) ∧
    (ch.qcnt = 0 → popValue c ch = 0 ∧ popChip ch = ch)

/-- R200, R203: after any pushes the unread events are the last 1024 of those unread before and those
pushed, so 1025 pushes from empty leave 1024 events, the second one first. -/
def Obligations.QueueKeepsLast1024 : Prop :=
  ∀ (ch : Chip) (es : List EventNo), QueueConsistent ch →
    unread (es.foldl (fun x e => push e x) ch) =
      (unread ch ++ es).drop ((unread ch ++ es).length - 1024)

/-! ### The interrupt service sequencer -/

/-- R184, R185, R213, R215: one pass of an idle sequencer, no other agent stepping between, clears the
lowest latch, leaves its bit enabled and the idle page selected, pushes its number, wakes the waiters,
and ends idle with both locks free, in at most 20 steps; nothing else changes. -/
def Obligations.IssPassServicesLowestBit : Prop :=
  ∀ (s : State) (c b : Nat), s.irqMode c = true → (s.chip c).iss.upc = 0 →
    (s.chip c).wlock = none → (s.chip c).qlock = none → LatchesEnabled (s.chip c) →
    LowestLatched (s.chip c) b →
    let ch := s.chip c
    ∃ n d tmp, n ≤ 20 ∧ issRun c n s =
      s.setChip c
        { ch with
          page := 0
          intId := bankWrite ch.intId ((b - 1) / 8)
            (bankRead ch.intId ((b - 1) / 8) 0 &&& ~~~(1#8 <<< ((b - 1) % 8)))
          buf := memStore ch.buf ch.qin.toNat (BitVec.ofNat 6 b)
          qin := ch.qin + 1
          qout := if ch.qcnt = 1024 then ch.qout + 1 else ch.qout
          qcnt := if ch.qcnt = 1024 then ch.qcnt else ch.qcnt + 1
          woken := ch.waiters
          iss := ⟨0, tmp⟩
          draws := d }

/-- R214, R263: an idle sequencer takes no step while nothing is pending or another agent holds the
window; on a polled chip it takes none at all; a step not taken leaves the state as it is (log entry
2). -/
def Obligations.IssTakesNoStepUnrequested : Prop :=
  ∀ (s : State) (c : Nat),
    (s.irqMode c = false → issStep c s = s) ∧
    ((s.chip c).iss.upc = 0 → NothingLatched (s.chip c) ∨ (s.chip c).wlock ≠ none → issStep c s = s)

/-! ### Reset -/

/-- R56, R290, R292: the reset state, for every configuration and every external level. -/
def Obligations.ResetLeavesResetState : Prop :=
  ∀ (cfg : Config.Board) (ext : Vector (Vector Byte 6) 4) (c : Nat),
    let s := State.resetFrom cfg ext
    let ch := s.chip c
    s.cfg = cfg ∧ s.inflight = [] ∧
    (∀ p, bankRead ch.out p 0 = 0 ∧ bankRead ch.img p 0 = 0) ∧
    (∀ i, bankRead ch.pol i 0 = 0 ∧ bankRead ch.enab i 0 = 0 ∧ bankRead ch.intId i 0 = 0) ∧
    ch.page = 0 ∧ ch.lock = 0 ∧ ch.qin = 0 ∧ ch.qout = 0 ∧ ch.qcnt = 0 ∧
    ch.wlock = none ∧ ch.qlock = none ∧ ch.waiters = [] ∧ ch.woken = [] ∧ ch.iss.upc = 0 ∧
    (∀ h : c - 1 < 4, c ∈ slotNumbers → ch.ext = ext[c - 1])

/-- R290, R292, R296: reset puts every register, index, count, lock and set of every chip at its reset
value and keeps the configuration and the external levels; the spec has no such step while a command is
in flight or a sequencer is not idle, and the model then refuses it (log entry 14). -/
def Obligations.ResetMoveNeedsQuiescence : Prop :=
  ∀ (s : State) (rest : List Config.Event), legalBoard s.cfg = true → s.agenda = .reset :: rest →
    (s.inflight = [] → (∀ c, c ∈ slotNumbers → (s.chip c).iss.upc = 0) →
      ∃ t, step s = .next t ∧ t.cfg = s.cfg ∧ t.inflight = [] ∧ t.agenda = rest ∧
        ∀ c, c ∈ slotNumbers →
          let ch := t.chip c
          (∀ p, bankRead ch.out p 0 = 0 ∧ bankRead ch.img p 0 = 0) ∧
          (∀ i, bankRead ch.pol i 0 = 0 ∧ bankRead ch.enab i 0 = 0 ∧ bankRead ch.intId i 0 = 0) ∧
          ch.page = 0 ∧ ch.lock = 0 ∧ ch.qin = 0 ∧ ch.qout = 0 ∧ ch.qcnt = 0 ∧
          ch.wlock = none ∧ ch.qlock = none ∧ ch.waiters = [] ∧ ch.woken = [] ∧ ch.iss.upc = 0 ∧
          ch.ext = (s.chip c).ext) ∧
    (s.inflight ≠ [] ∨ (∃ c, c ∈ slotNumbers ∧ (s.chip c).iss.upc ≠ 0) →
      step s = .refused .resetNotQuiescent)

/-! ### Invariants: every step keeps them, and the reset state has them -/

/-- R23: every step keeps image and output register equal. -/
def Obligations.StepKeepsImage : Prop :=
  ∀ s t : State, EveryChip ImageMatches s → step s = .next t → EveryChip ImageMatches t

/-- R31, R35: every step keeps the latches of disabled bits clear. -/
def Obligations.StepKeepsLatchesEnabled : Prop :=
  ∀ s t : State, EveryChip LatchesEnabled s → step s = .next t → EveryChip LatchesEnabled t

/-- R38, R39, R183, R219: every step keeps the queue's indices and count consistent, every unread event
in 1..24, and so the sequencer's result. -/
def Obligations.StepKeepsEvents : Prop :=
  ∀ s t : State, EveryChip EventsInRange s → step s = .next t → EveryChip EventsInRange t

/-- R40, R76, R77, R80, R82: every step keeps the lock discipline: each lock is held by exactly the agent
whose micro-program stands between its acquisition and its release, so no two page-locked operations
of one chip are ever under way together. -/
def Obligations.StepKeepsLockDiscipline : Prop :=
  ∀ s t : State, LocksHeld s → step s = .next t → LocksHeld t

/-- R42, R211, R269: every step keeps `WAITERS` the set of the consumers whose WAIT_INT stands between
join and leave. -/
def Obligations.StepKeepsWaiters : Prop :=
  ∀ s t : State, WaitersExact s → step s = .next t → WaitersExact t

/-- R7, R42, R50, R256: every step keeps the configuration, the event buffers' and the waiter sets'
canonical forms, and every accepted command valid and at a step of its micro-program. -/
def Obligations.StepKeepsForms : Prop :=
  ∀ s t : State,
    EveryChip BufferCanonical s → EveryChip WaitersCanonical s → FlightValid s → step s = .next t →
    t.cfg = s.cfg ∧ EveryChip BufferCanonical t ∧ EveryChip WaitersCanonical t ∧ FlightValid t

/-- R200, R218: every step keeps the queue of a chip that is not IRQ-driven empty. -/
def Obligations.StepKeepsPolledQueueEmpty : Prop :=
  ∀ s t : State, (∀ c, s.irqMode c = false → (s.chip c).qcnt = 0) → step s = .next t →
    ∀ c, t.irqMode c = false → (t.chip c).qcnt = 0

/-- R39, R56: the reset state has every invariant above, for every configuration and every external
level. -/
def Obligations.ResetHasInvariants : Prop :=
  ∀ (cfg : Config.Board) (ext : Vector (Vector Byte 6) 4),
    let s := State.resetFrom cfg ext
    EveryChip ImageMatches s ∧ EveryChip LatchesEnabled s ∧ EveryChip EventsInRange s ∧
    LocksHeld s ∧ WaitersExact s ∧ EveryChip BufferCanonical s ∧ EveryChip WaitersCanonical s ∧
    FlightValid s ∧ ∀ c, (s.chip c).qcnt = 0

/-- R77, R296: while the block is quiescent both locks of every present chip are free and both waiter
sets are empty. -/
def Obligations.QuiescentBlockIsFree : Prop :=
  ∀ (s : State) (c : Nat), LocksHeld s → WaitersExact s → EveryChip WaitersCanonical s →
    quiescent s = true → s.present c = true →
    (s.chip c).wlock = none ∧ (s.chip c).qlock = none ∧ (s.chip c).waiters = [] ∧
      (s.chip c).woken = []

/-- R217: whoever holds a lock is rid of it after at most 16 of its own steps for the window, 2 for the
queue. -/
def Obligations.LockHoldsAreBounded : Prop :=
  ∀ (s : State) (c k : Nat), LocksHeld s → s.present c = true →
    ((s.chip c).wlock = some (.consumer k) →
      ∃ n, n ≤ 16 ∧ ((consumerRun k n s).chip c).wlock = none) ∧
    ((s.chip c).qlock = some (.consumer k) →
      ∃ n, n ≤ 2 ∧ ((consumerRun k n s).chip c).qlock = none) ∧
    ((s.chip c).wlock = some .iss → ∃ n, n ≤ 16 ∧ ((issRun c n s).chip c).wlock = none) ∧
    ((s.chip c).qlock = some .iss → ∃ n, n ≤ 2 ∧ ((issRun c n s).chip c).qlock = none)

/-! ### Frames -/

/-- R20, R74, R101: a command touches no chip but its own, no other consumer's record, no configuration,
and delivers at most one response, to its own consumer. -/
def Obligations.CommandsStayOnTheirChip : Prop :=
  ∀ (s t : State) (i : Instr), exec i s = .next t →
    (∀ c, c ≠ i.chipField → t.chip c = s.chip c) ∧
    (∀ k, k ≠ s.cur → t.flight k = s.flight k) ∧
    t.cfg = s.cfg ∧ t.agenda = s.agenda ∧ t.cur = s.cur ∧ t.clock = s.clock ∧
    (t.responses = s.responses ∨
      ∃ r, r.consumer = s.cur ∧ t.responses = s.responses ++ [r])

/-- R70, R131, R151: READ_PORT and READ_BIT leave every register, every event slot, every lock and set of
the chip as it was (`draws` is the model's own counter of free values). -/
def Obligations.ReadCommandsFrame : Prop :=
  ∀ (s t : State) (c x : Nat) (i : Instr), i = .readPort c x ∨ i = .readBit c x →
    exec i s = .next t →
    (∃ n, t.chip c = { s.chip c with draws := n }) ∧ t.inflight = s.inflight ∧
    ∀ a, memRead? (t.chip c).buf a = memRead? (s.chip c).buf a

/-- R121, R133, R152: the data-port writes change at most output register, image and latches of the port
they address; every other register, the page and lock bits, every event slot stay. -/
def Obligations.DataPortWritesFrame : Prop :=
  ∀ (s t : State) (c p : Nat) (i : Instr),
    (∃ v, i = .writePort c p v ∧ p ≤ 5) ∨
      (∃ b v, (i = .writeBit c b v ∨ i = .setBit c b ∨ i = .clrBit c b) ∧ p = (b - 1) / 8) →
    exec i s = .next t →
    (∃ o m l, t.chip c = { s.chip c with out := o, img := m, intId := l } ∧
      ∀ q, q ≠ p → bankRead o q 0 = bankRead (s.chip c).out q 0 ∧
        bankRead m q 0 = bankRead (s.chip c).img q 0 ∧
        bankRead l q 0 = bankRead (s.chip c).intId q 0) ∧
    ∀ a, memRead? (t.chip c).buf a = memRead? (s.chip c).buf a

/-- R178 to R182, R245: the interrupt commands change at most the page and the three interrupt registers
of the port they address, the polarity only ENABLE_INT; outputs, images, lock bits, the queue, every
event slot stay. -/
def Obligations.InterruptCommandsFrame : Prop :=
  ∀ (s t : State) (c p : Nat) (i : Instr),
    (∃ b v, (i = .enableInt c b v ∨ i = .disableInt c b ∨ i = .clearInt c b) ∧ p = (b - 1) / 8) ∨
      i = .clearIntId c p →
    exec i s = .next t →
    (∃ pg en po l, t.chip c =
        { s.chip c with page := pg, enab := en, pol := po, intId := l } ∧
      (∀ q, q ≠ p → bankRead en q 0 = bankRead (s.chip c).enab q 0 ∧
        bankRead po q 0 = bankRead (s.chip c).pol q 0 ∧
        bankRead l q 0 = bankRead (s.chip c).intId q 0) ∧
      ((∀ b v, i ≠ .enableInt c b v) → po = (s.chip c).pol) ∧
      (i = .clearIntId c p → en = (s.chip c).enab)) ∧
    ∀ a, memRead? (t.chip c).buf a = memRead? (s.chip c).buf a

/-- R202, R210, R211: GET_INT and WAIT_INT leave outputs, images, lock bits, polarity, external levels,
the sequencer, both locks and every event slot as they were; in IRQ-driven mode also page, enables and
latches, in polled mode also the queue. -/
def Obligations.EventCommandsFrame : Prop :=
  ∀ (s t : State) (c : Nat) (i : Instr), i = .getInt c ∨ i = .waitInt c → exec i s = .next t →
    (∃ pg en l qo qc wa wo n, t.chip c =
        { s.chip c with
          page := pg, enab := en, intId := l, qout := qo, qcnt := qc, waiters := wa, woken := wo,
          draws := n } ∧
      (s.irqMode c = true →
        pg = (s.chip c).page ∧ en = (s.chip c).enab ∧ l = (s.chip c).intId) ∧
      (s.irqMode c = false → qo = (s.chip c).qout ∧ qc = (s.chip c).qcnt) ∧
      (i = .getInt c → wa = (s.chip c).waiters ∧ wo = (s.chip c).woken)) ∧
    ∀ a, memRead? (t.chip c).buf a = memRead? (s.chip c).buf a

/-- R241, R242: LOCK_PORT and UNLOCK_PORT change at most the one lock bit; the page, every register and
every event slot stay. -/
def Obligations.LockCommandsFrame : Prop :=
  ∀ (s t : State) (c p : Nat) (i : Instr), i = .lockPort c p ∨ i = .unlockPort c p →
    exec i s = .next t →
    (∃ l, t.chip c = { s.chip c with lock := l } ∧
      ∀ q, q ≠ p → l.getLsbD q = (s.chip c).lock.getLsbD q) ∧
    ∀ a, memRead? (t.chip c).buf a = memRead? (s.chip c).buf a
end

