-- ==== Sys2Proof/Laws/Decode.lean ====
section
/-! SUPPORT. The fields of a word given as a number: each is a quotient and a remainder, so that linear
arithmetic settles what a word built from its fields decodes to (R90, R92). -/

namespace Sys2Proof.Laws

theorem opcodeOf_ofNat (n : Nat) : opcodeOf (BitVec.ofNat 24 n) = n % 16777216 / 1048576 % 16 := by
  simp only [opcodeOf, BitVec.extractLsb'_toNat, BitVec.toNat_ofNat, Nat.shiftRight_eq_div_pow,
    Nat.reducePow]

theorem chipOf_ofNat (n : Nat) : chipOf (BitVec.ofNat 24 n) = n % 16777216 / 65536 % 8 := by
  simp only [chipOf, BitVec.extractLsb'_toNat, BitVec.toNat_ofNat, Nat.shiftRight_eq_div_pow,
    Nat.reducePow]

theorem indexOf_ofNat (n : Nat) : indexOf (BitVec.ofNat 24 n) = n % 16777216 / 256 % 64 := by
  simp only [indexOf, BitVec.extractLsb'_toNat, BitVec.toNat_ofNat, Nat.shiftRight_eq_div_pow,
    Nat.reducePow]

theorem dataOf_ofNat (n : Nat) : (dataOf (BitVec.ofNat 24 n)).toNat = n % 16777216 % 256 := by
  simp only [dataOf, BitVec.extractLsb'_toNat, BitVec.toNat_ofNat, Nat.shiftRight_eq_div_pow,
    Nat.reducePow, pow_zero, Nat.div_one]

theorem reservedZero_ofNat (n : Nat) (h1 : n % 16777216 / 524288 % 2 = 0)
    (h2 : n % 16777216 / 16384 % 4 = 0) : reservedZero (BitVec.ofNat 24 n) = true := by
  simp only [reservedZero, Bool.and_eq_true, beq_iff_eq]
  constructor <;> apply BitVec.eq_of_toNat_eq <;>
    simp only [BitVec.extractLsb'_toNat, BitVec.toNat_ofNat, Nat.shiftRight_eq_div_pow,
      Nat.reducePow, BitVec.ofNat_eq_ofNat, Nat.zero_mod]
  · exact h1
  · exact h2

/-- The number `encode` makes, from fields that fit, and what each field of its word is. -/
theorem packed_fields (op c x v : Nat) (hop : op < 16) (hc : c < 8) (hx : x < 64) (hv : v < 256) :
    (op * 0x100000 + c * 0x10000 + x * 0x100 + v) % 16777216 / 1048576 % 16 = op ∧
    (op * 0x100000 + c * 0x10000 + x * 0x100 + v) % 16777216 / 65536 % 8 = c ∧
    (op * 0x100000 + c * 0x10000 + x * 0x100 + v) % 16777216 / 256 % 64 = x ∧
    (op * 0x100000 + c * 0x10000 + x * 0x100 + v) % 16777216 % 256 = v ∧
    (op * 0x100000 + c * 0x10000 + x * 0x100 + v) % 16777216 / 524288 % 2 = 0 ∧
    (op * 0x100000 + c * 0x10000 + x * 0x100 + v) % 16777216 / 16384 % 4 = 0 := by
  refine ⟨?_, ?_, ?_, ?_, ?_, ?_⟩ <;> omega

end Sys2Proof.Laws
end

