-- ==== Sys2Proof/Laws/Store.lean ====
section
/-! SUPPORT. What the containers' operations do: read after write, writes elsewhere, and that every
operation keeps the canonical form. -/

namespace Sys2Proof.Laws

open Sys2Proof.Machine

/-! ### Banks -/

theorem bankRead_bankWrite_same {α : Type} {n : Nat} (v : Vector α n) (i : Nat) (x d : α) (h : i < n) :
    bankRead (bankWrite v i x) i d = x := by
  simp [bankRead, bankWrite, h]

@[simp] theorem bankRead_bankWrite_ne {α : Type} {n : Nat} (v : Vector α n) (i j : Nat) (x d : α)
    (h : i ≠ j) : bankRead (bankWrite v i x) j d = bankRead v j d := by
  simp [bankRead, bankWrite, h]

theorem bankWrite_outside {α : Type} {n : Nat} (v : Vector α n) (i : Nat) (x : α) (h : n ≤ i) :
    bankWrite v i x = v := by
  simp [bankWrite, Vector.setIfInBounds_eq_of_size_le h]

theorem bankRead_outside {α : Type} {n : Nat} (v : Vector α n) (i : Nat) (d : α) (h : n ≤ i) :
    bankRead v i d = d := by
  simp [bankRead, h]

@[simp] theorem bankWrite_bankWrite {α : Type} {n : Nat} (v : Vector α n) (i : Nat) (x y : α) :
    bankWrite (bankWrite v i x) i y = bankWrite v i y := by
  simp [bankWrite]

@[simp] theorem bankWrite_bankRead {α : Type} {n : Nat} (v : Vector α n) (i : Nat) (d : α) :
    bankWrite v i (bankRead v i d) = v := by
  by_cases h : i < n
  · ext j hj
    simp only [bankWrite, bankRead, Vector.getElem_setIfInBounds]
    split <;> simp_all
  · exact bankWrite_outside v i _ (Nat.le_of_not_lt h)

/-- Two banks that read alike everywhere are one bank. -/
theorem bank_ext {α : Type} {n : Nat} (v w : Vector α n) (d : α)
    (h : ∀ i, i < n → bankRead v i d = bankRead w i d) : v = w := by
  ext i hi
  simpa [bankRead, hi] using h i hi

/-! ### Lists with a key -/

@[simp] theorem cellsLookup_store_same {α : Type} (k : Nat) (x : α) (l : List (Nat × α)) :
    cellsLookup k (cellsStore k x l) = some x := by
  induction l with
  | nil => simp [cellsStore, cellsLookup]
  | cons e rest ih =>
    obtain ⟨j, y⟩ := e
    simp only [cellsStore]
    split
    · simp [cellsLookup]
    · split
      · simp [cellsLookup]
      · simp_all [cellsLookup, eq_comm]

@[simp] theorem cellsLookup_store_ne {α : Type} (k a : Nat) (x : α) (l : List (Nat × α)) (h : k ≠ a) :
    cellsLookup a (cellsStore k x l) = cellsLookup a l := by
  induction l with
  | nil => simp [cellsStore, cellsLookup, h]
  | cons e rest ih =>
    obtain ⟨j, y⟩ := e
    simp only [cellsStore]
    split
    · simp [cellsLookup, h]
    · split
      · subst k; simp [cellsLookup, h]
      · simp only [cellsLookup, ih]

@[simp] theorem cellsLookup_remove_same {α : Type} (k : Nat) (l : List (Nat × α)) :
    cellsLookup k (cellsRemove k l) = none := by
  induction l with
  | nil => rfl
  | cons e rest ih =>
    obtain ⟨j, y⟩ := e
    by_cases h : j = k
    · simpa [cellsRemove, h] using ih
    · simpa [cellsRemove, h, cellsLookup] using ih

@[simp] theorem cellsLookup_remove_ne {α : Type} (k a : Nat) (l : List (Nat × α)) (h : k ≠ a) :
    cellsLookup a (cellsRemove k l) = cellsLookup a l := by
  induction l with
  | nil => rfl
  | cons e rest ih =>
    obtain ⟨j, y⟩ := e
    by_cases hj : j = k
    · subst j
      simpa [cellsRemove, cellsLookup, h] using ih
    · have hr : cellsRemove k ((j, y) :: rest) = (j, y) :: cellsRemove k rest := by
        simp [cellsRemove, hj]
      rw [hr]
      simp only [cellsLookup, ih]

/-- Nothing is listed under `k`, so removing it changes nothing. -/
theorem cellsRemove_absent {α : Type} (k : Nat) (l : List (Nat × α)) (h : cellsLookup k l = none) :
    cellsRemove k l = l := by
  induction l with
  | nil => rfl
  | cons e rest ih =>
    obtain ⟨j, y⟩ := e
    by_cases hj : j = k
    · simp [cellsLookup, hj] at h
    · simp only [cellsLookup, hj, if_false] at h
      have hr : cellsRemove k ((j, y) :: rest) = (j, y) :: cellsRemove k rest := by
        simp [cellsRemove, hj]
      rw [hr, ih h]

theorem cellsRemove_store {α : Type} (k : Nat) (x : α) (l : List (Nat × α)) :
    cellsRemove k (cellsStore k x l) = cellsRemove k l := by
  induction l with
  | nil => simp [cellsStore, cellsRemove]
  | cons e rest ih =>
    obtain ⟨j, y⟩ := e
    simp only [cellsStore]
    split
    · simp [cellsRemove]
    · split
      · subst k; simp [cellsRemove]
      · simp only [cellsRemove, List.filter_cons] at ih ⊢
        rw [ih]

@[simp] theorem cellsStore_store {α : Type} (k : Nat) (x y : α) (l : List (Nat × α)) :
    cellsStore k y (cellsStore k x l) = cellsStore k y l := by
  induction l with
  | nil => simp [cellsStore]
  | cons e rest ih =>
    obtain ⟨j, z⟩ := e
    by_cases h1 : k < j
    · simp [cellsStore, h1]
    · by_cases h2 : k = j
      · simp [cellsStore, h2]
      · simp [cellsStore, h1, h2, ih]

/-- What `cellsStore` lists is the new pair or was listed before. -/
theorem mem_cellsStore {α : Type} (k : Nat) (x : α) (l : List (Nat × α)) (e : Nat × α)
    (h : e ∈ cellsStore k x l) : e = (k, x) ∨ e ∈ l := by
  induction l with
  | nil => simp_all [cellsStore]
  | cons e' rest ih =>
    obtain ⟨j, y⟩ := e'
    simp only [cellsStore] at h
    split at h
    · simpa using h
    · split at h
      · simp only [List.mem_cons] at h ⊢; tauto
      · simp only [List.mem_cons] at h ⊢; tauto

theorem cellsStore_wf {α : Type} (k : Nat) (x : α) (l : List (Nat × α)) (h : cellsWf l) :
    cellsWf (cellsStore k x l) := by
  induction l with
  | nil => simp [cellsStore, cellsWf]
  | cons e rest ih =>
    obtain ⟨j, y⟩ := e
    simp only [cellsWf, List.map_cons, List.pairwise_cons] at h
    simp only [cellsStore]
    split
    · rename_i hk
      simp only [cellsWf, List.map_cons, List.pairwise_cons]
      refine ⟨fun a ha => ?_, h⟩
      rcases List.mem_cons.mp ha with rfl | ha
      · exact hk
      · exact lt_trans hk (h.1 a ha)
    · split
      · subst k; simpa [cellsWf] using h
      · rename_i h1 h2
        simp only [cellsWf, List.map_cons, List.pairwise_cons]
        refine ⟨fun a ha => ?_, ih h.2⟩
        obtain ⟨e, he, rfl⟩ := List.mem_map.mp ha
        rcases mem_cellsStore k x rest e he with rfl | he
        · simp only; omega
        · exact h.1 e.1 (List.mem_map_of_mem he)

theorem cellsRemove_wf {α : Type} (k : Nat) (l : List (Nat × α)) (h : cellsWf l) :
    cellsWf (cellsRemove k l) := by
  exact List.Pairwise.sublist (List.Sublist.map _ List.filter_sublist) h

/-! ### Sets of consumers -/

@[simp] theorem mem_idsInsert (k a : Nat) (l : List Nat) : a ∈ idsInsert k l ↔ a = k ∨ a ∈ l := by
  induction l with
  | nil => simp [idsInsert]
  | cons j rest ih =>
    simp only [idsInsert]
    split
    · simp
    · split
      · subst k; simp
      · simp only [List.mem_cons, ih]; tauto

@[simp] theorem mem_idsRemove (k a : Nat) (l : List Nat) : a ∈ idsRemove k l ↔ a ∈ l ∧ a ≠ k := by
  simp [idsRemove]

theorem idsInsert_rising (k : Nat) (l : List Nat) (h : l.Pairwise (· < ·)) :
    (idsInsert k l).Pairwise (· < ·) := by
  induction l with
  | nil => simp [idsInsert]
  | cons j rest ih =>
    simp only [idsInsert]
    rw [List.pairwise_cons] at h
    split
    · rename_i hk
      rw [List.pairwise_cons, List.pairwise_cons]
      refine ⟨fun a ha => ?_, h⟩
      rcases List.mem_cons.mp ha with rfl | ha
      · exact hk
      · exact lt_trans hk (h.1 a ha)
    · split
      · exact List.pairwise_cons.mpr h
      · rename_i h1 h2
        rw [List.pairwise_cons]
        refine ⟨fun a ha => ?_, ih h.2⟩
        rcases (mem_idsInsert k a rest).mp ha with rfl | ha
        · omega
        · exact h.1 a ha

theorem idsRemove_rising (k : Nat) (l : List Nat) (h : l.Pairwise (· < ·)) :
    (idsRemove k l).Pairwise (· < ·) := h.sublist List.filter_sublist

/-! ### The event buffer -/

@[simp] theorem memRead?_store_same (m : Memory) (a : Nat) (e : EventNo) :
    memRead? (memStore m a e) a = some e := cellsLookup_store_same a e m

@[simp] theorem memRead?_store_ne (m : Memory) (a b : Nat) (e : EventNo) (h : a ≠ b) :
    memRead? (memStore m a e) b = memRead? m b := cellsLookup_store_ne a b e m h

/-- Writing a slot of the buffer keeps its canonical form. -/
theorem memStore_wf (m : Memory) (a : Nat) (e : EventNo) (ha : a < 1024) (h : Memory.wf m) :
    Memory.wf (memStore m a e) := by
  refine ⟨cellsStore_wf a e m h.1, fun x hx => ?_⟩
  rcases mem_cellsStore a e m x hx with rfl | hx
  · exact ha
  · exact h.2 x hx

/-- The empty buffer, which every chip has after reset, is in canonical form. -/
theorem memory_nil_wf : Memory.wf [] := by simp [Memory.wf]

end Sys2Proof.Laws
end

