-- ==== Sys2Proof/Laws/State.lean ====
section
/-! SUPPORT. What the parts of the state read after each update: one lemma for each part and update, so
that no later proof unfolds a record. -/

namespace Sys2Proof.Laws

open Sys2Proof.Machine

/-! ### Slots -/

theorem slotIx_lt {cfg : Config.Board} {c : Nat} (h : presentIn cfg c = true) : slotIx c < 4 := by
  by_contra hc
  simp [presentIn, slotOf, bankRead_outside cfg (slotIx c) _ (Nat.le_of_not_lt hc),
    Config.Slot.absent] at h

/-- Slots have different places, as far as they have places at all. -/
theorem slotIx_ne {c d : Nat} (h : c ≠ d) : slotIx c ≠ slotIx d ∨ 4 ≤ slotIx c := by
  unfold slotIx
  split <;> split <;> omega

/-- A present slot is one of the four. -/
theorem present_mem {cfg : Config.Board} {c : Nat} (h : presentIn cfg c = true) :
    c ∈ slotNumbers := by
  have := slotIx_lt h
  unfold slotIx at this
  split at this
  · omega
  · simp only [slotNumbers, List.mem_cons, List.not_mem_nil, or_false]; omega

/-! ### Chips -/

theorem chip_setChip_same (s : State) (c : Nat) (ch : Chip) (h : slotIx c < 4) :
    (s.setChip c ch).chip c = ch := bankRead_bankWrite_same _ _ _ _ h

/-- The same, for a slot of the board. -/
theorem chip_setChip_present (s : State) (c : Nat) (ch : Chip) (h : s.present c = true) :
    (s.setChip c ch).chip c = ch := chip_setChip_same s c ch (slotIx_lt h)

@[simp] theorem chip_setChip_ne (s : State) (c d : Nat) (ch : Chip) (h : c ≠ d) :
    (s.setChip c ch).chip d = s.chip d := by
  rcases slotIx_ne h with h | h
  · exact bankRead_bankWrite_ne _ _ _ _ _ h
  · unfold State.chip State.setChip
    rw [bankWrite_outside _ _ _ h]

@[simp] theorem setChip_setChip (s : State) (c : Nat) (ch ch' : Chip) :
    (s.setChip c ch).setChip c ch' = s.setChip c ch' := by
  simp [State.setChip]

@[simp] theorem setChip_chip (s : State) (c : Nat) : s.setChip c (s.chip c) = s := by
  simp [State.setChip, State.chip]

@[simp] theorem setChip_cfg (s : State) (c : Nat) (ch : Chip) : (s.setChip c ch).cfg = s.cfg := rfl
@[simp] theorem setChip_inflight (s : State) (c : Nat) (ch : Chip) :
    (s.setChip c ch).inflight = s.inflight := rfl
@[simp] theorem setChip_responses (s : State) (c : Nat) (ch : Chip) :
    (s.setChip c ch).responses = s.responses := rfl
@[simp] theorem setChip_agenda (s : State) (c : Nat) (ch : Chip) :
    (s.setChip c ch).agenda = s.agenda := rfl
@[simp] theorem setChip_cur (s : State) (c : Nat) (ch : Chip) : (s.setChip c ch).cur = s.cur := rfl
@[simp] theorem setChip_clock (s : State) (c : Nat) (ch : Chip) :
    (s.setChip c ch).clock = s.clock := rfl
@[simp] theorem setChip_present (s : State) (c d : Nat) (ch : Chip) :
    (s.setChip c ch).present d = s.present d := rfl
@[simp] theorem setChip_irqMode (s : State) (c d : Nat) (ch : Chip) :
    (s.setChip c ch).irqMode d = s.irqMode d := rfl
@[simp] theorem setChip_flight (s : State) (c k : Nat) (ch : Chip) :
    (s.setChip c ch).flight k = s.flight k := rfl
@[simp] theorem setChip_busy (s : State) (c k : Nat) (ch : Chip) :
    (s.setChip c ch).busy k = s.busy k := rfl

/-! ### In-flight records -/

@[simp] theorem setFlight_cfg (s : State) (k : Nat) (r : InFlight) : (s.setFlight k r).cfg = s.cfg := rfl
@[simp] theorem setFlight_chips (s : State) (k : Nat) (r : InFlight) :
    (s.setFlight k r).chips = s.chips := rfl
@[simp] theorem setFlight_chip (s : State) (k c : Nat) (r : InFlight) :
    (s.setFlight k r).chip c = s.chip c := rfl
@[simp] theorem setFlight_responses (s : State) (k : Nat) (r : InFlight) :
    (s.setFlight k r).responses = s.responses := rfl
@[simp] theorem setFlight_agenda (s : State) (k : Nat) (r : InFlight) :
    (s.setFlight k r).agenda = s.agenda := rfl
@[simp] theorem setFlight_cur (s : State) (k : Nat) (r : InFlight) : (s.setFlight k r).cur = s.cur := rfl
@[simp] theorem setFlight_clock (s : State) (k : Nat) (r : InFlight) :
    (s.setFlight k r).clock = s.clock := rfl
@[simp] theorem setFlight_present (s : State) (k c : Nat) (r : InFlight) :
    (s.setFlight k r).present c = s.present c := rfl
@[simp] theorem setFlight_irqMode (s : State) (k c : Nat) (r : InFlight) :
    (s.setFlight k r).irqMode c = s.irqMode c := rfl
@[simp] theorem setFlight_flight_same (s : State) (k : Nat) (r : InFlight) :
    (s.setFlight k r).flight k = some r := cellsLookup_store_same _ _ _
@[simp] theorem setFlight_flight_ne (s : State) (k j : Nat) (r : InFlight) (h : k ≠ j) :
    (s.setFlight k r).flight j = s.flight j := cellsLookup_store_ne _ _ _ _ h

@[simp] theorem endFlight_cfg (s : State) (k : Nat) : (s.endFlight k).cfg = s.cfg := rfl
@[simp] theorem endFlight_chips (s : State) (k : Nat) : (s.endFlight k).chips = s.chips := rfl
@[simp] theorem endFlight_chip (s : State) (k c : Nat) : (s.endFlight k).chip c = s.chip c := rfl
@[simp] theorem endFlight_responses (s : State) (k : Nat) :
    (s.endFlight k).responses = s.responses := rfl
@[simp] theorem endFlight_agenda (s : State) (k : Nat) : (s.endFlight k).agenda = s.agenda := rfl
@[simp] theorem endFlight_cur (s : State) (k : Nat) : (s.endFlight k).cur = s.cur := rfl
@[simp] theorem endFlight_clock (s : State) (k : Nat) : (s.endFlight k).clock = s.clock := rfl
@[simp] theorem endFlight_present (s : State) (k c : Nat) :
    (s.endFlight k).present c = s.present c := rfl
@[simp] theorem endFlight_irqMode (s : State) (k c : Nat) :
    (s.endFlight k).irqMode c = s.irqMode c := rfl
@[simp] theorem endFlight_flight_same (s : State) (k : Nat) : (s.endFlight k).flight k = none :=
  cellsLookup_remove_same _ _
@[simp] theorem endFlight_flight_ne (s : State) (k j : Nat) (h : k ≠ j) :
    (s.endFlight k).flight j = s.flight j := cellsLookup_remove_ne _ _ _ h

theorem endFlight_idle (s : State) (k : Nat) (h : s.busy k = false) : s.endFlight k = s := by
  have hn : cellsLookup k s.inflight = none := by
    simpa [State.busy, State.flight] using h
  simp [State.endFlight, cellsRemove_absent k s.inflight hn]

@[simp] theorem setFlight_setFlight (s : State) (k : Nat) (r r' : InFlight) :
    (s.setFlight k r).setFlight k r' = s.setFlight k r' := by
  simp [State.setFlight]

@[simp] theorem endFlight_setFlight (s : State) (k : Nat) (r : InFlight) :
    (s.setFlight k r).endFlight k = s.endFlight k := by
  simp [State.setFlight, State.endFlight, cellsRemove_store]

theorem setChip_setFlight (s : State) (c k : Nat) (ch : Chip) (r : InFlight) :
    (s.setFlight k r).setChip c ch = (s.setChip c ch).setFlight k r := rfl

theorem setChip_endFlight (s : State) (c k : Nat) (ch : Chip) :
    (s.endFlight k).setChip c ch = (s.setChip c ch).endFlight k := rfl

/-! ### Responses -/

@[simp] theorem deliver_cfg (s : State) (k : Nat) (st : Status) (v : Byte) :
    (s.deliver k st v).cfg = s.cfg := rfl
@[simp] theorem deliver_chips (s : State) (k : Nat) (st : Status) (v : Byte) :
    (s.deliver k st v).chips = s.chips := rfl
@[simp] theorem deliver_chip (s : State) (k c : Nat) (st : Status) (v : Byte) :
    (s.deliver k st v).chip c = s.chip c := rfl
@[simp] theorem deliver_inflight (s : State) (k : Nat) (st : Status) (v : Byte) :
    (s.deliver k st v).inflight = s.inflight := rfl
@[simp] theorem deliver_flight (s : State) (k j : Nat) (st : Status) (v : Byte) :
    (s.deliver k st v).flight j = s.flight j := rfl
@[simp] theorem deliver_agenda (s : State) (k : Nat) (st : Status) (v : Byte) :
    (s.deliver k st v).agenda = s.agenda := rfl
@[simp] theorem deliver_cur (s : State) (k : Nat) (st : Status) (v : Byte) :
    (s.deliver k st v).cur = s.cur := rfl
@[simp] theorem deliver_clock (s : State) (k : Nat) (st : Status) (v : Byte) :
    (s.deliver k st v).clock = s.clock := rfl
@[simp] theorem deliver_present (s : State) (k c : Nat) (st : Status) (v : Byte) :
    (s.deliver k st v).present c = s.present c := rfl
@[simp] theorem deliver_irqMode (s : State) (k c : Nat) (st : Status) (v : Byte) :
    (s.deliver k st v).irqMode c = s.irqMode c := rfl
@[simp] theorem deliver_responses (s : State) (k : Nat) (st : Status) (v : Byte) :
    (s.deliver k st v).responses = s.responses ++ [{ consumer := k, word := responseWord st v }] := rfl

/-! ### Reset -/

/-- Every slot of the machine after reset is a chip in the reset state of R56. -/
theorem resetFrom_chip (cfg : Config.Board) (ext : Vector (Vector Byte 6) 4) (c : Nat) :
    (State.resetFrom cfg ext).chip c =
      Chip.resetWith (bankRead ext (slotIx c) (Vector.replicate 6 0)) 0 := by
  unfold State.chip
  generalize slotIx c = i
  match i with
  | 0 | 1 | 2 | 3 => simp [State.resetFrom, bankRead]
  | _ + 4 => simp [State.resetFrom, bankRead]

@[simp] theorem resetFrom_chip_ext (cfg : Config.Board) (ext : Vector (Vector Byte 6) 4) (c : Nat) :
    ((State.resetFrom cfg ext).chip c).ext = bankRead ext (slotIx c) (Vector.replicate 6 0) := by
  rw [resetFrom_chip]; rfl

end Sys2Proof.Laws
end

