-- ==== Sys2Proof/Laws/Ops.lean ====
section
/-! SUPPORT. What each shared operation can do, said once: locks, bus accesses, the page switch, the queue
primitives, running a micro-program, issue. -/

namespace Sys2Proof.Laws

open Sys2Proof.Machine

/-! ### Locks -/

/-- An acquisition is taken exactly when the lock is free (R76). -/
theorem acquireW_cases (me : Holder) (n : Nat) (tmp : Temps) (ch : Chip) :
    (ch.wlock = none ∧ acquireW me n tmp ch = .goto n tmp { ch with wlock := some me }) ∨
      (ch.wlock ≠ none ∧ acquireW me n tmp ch = .wait) := by
  by_cases h : ch.wlock = none <;> simp [acquireW, h]

theorem acquireQ_cases (me : Holder) (n : Nat) (tmp : Temps) (ch : Chip) :
    (ch.qlock = none ∧ acquireQ me n tmp ch = .goto n tmp { ch with qlock := some me }) ∨
      (ch.qlock ≠ none ∧ acquireQ me n tmp ch = .wait) := by
  by_cases h : ch.qlock = none <;> simp [acquireQ, h]

/-- A release is a step of the holder alone (R77). -/
theorem releaseW_cases (me : Holder) (ch : Chip) (k : Chip → Micro) :
    (ch.wlock = some me ∧ releaseW me ch k = k { ch with wlock := none }) ∨
      (ch.wlock ≠ some me ∧ releaseW me ch k = .wait) := by
  by_cases h : ch.wlock = some me <;> simp [releaseW, h]

theorem releaseQ_cases (me : Holder) (ch : Chip) (k : Chip → Micro) :
    (ch.qlock = some me ∧ releaseQ me ch k = k { ch with qlock := none }) ∨
      (ch.qlock ≠ some me ∧ releaseQ me ch k = .wait) := by
  by_cases h : ch.qlock = some me <;> simp [releaseQ, h]

/-! ### Bus accesses -/

@[simp] theorem ioRead_pageLock (c : Nat) (ch : Chip) : ioRead c 7 ch = ch.page ++ ch.lock := rfl

@[simp] theorem ioRead_pending (c : Nat) (ch : Chip) :
    ioRead c 6 ch = Config.pendingHigh c ch.draws ++ pend ch := rfl

theorem ioRead_port (c p : Nat) (ch : Chip) (h : p ≤ 5) : ioRead c p ch = line ch p := by
  simp [ioRead, h]

theorem ioRead_paged (c i : Nat) (ch : Chip) (h : i ≤ 2) : ioRead c (8 + i) ch = pagedRead c i ch := by
  have h1 : ¬(8 + i ≤ 5) := by omega
  have h2 : ¬(8 + i = 6) := by omega
  have h3 : ¬(8 + i = 7) := by omega
  have h4 : 8 + i ≤ 10 := by omega
  simp [ioRead, h1, h2, h3, h4]

@[simp] theorem afterRead_pageLock (ch : Chip) : afterRead 7 ch = ch := rfl

theorem afterRead_port (p : Nat) (ch : Chip) (h : p ≤ 5) : afterRead p ch = ch := by
  have h1 : p ≠ 6 := by omega
  have h2 : ¬(8 ≤ p) := by omega
  have h3 : ¬(11 ≤ p) := by omega
  simp [afterRead, drawsAt, h1, h2, h3]

theorem afterRead_paged (i : Nat) (ch : Chip) (hi : i ≤ 2) (h : ch.page ≠ 0) :
    afterRead (8 + i) ch = ch := by
  have h1 : 8 + i ≠ 6 := by omega
  have h3 : ¬(11 ≤ 8 + i) := by omega
  have h4 : ¬ch.page = 0#2 := h
  simp [afterRead, drawsAt, h3, h4]
  intro h5
  exact absurd h5 h1

/-- A bus read changes nothing the spec names (R70): at most the model's own draw counter. -/
theorem afterRead_cases (off : Nat) (ch : Chip) :
    afterRead off ch = ch ∨ afterRead off ch = { ch with draws := ch.draws + 1 } := by
  unfold afterRead; split
  · exact .inr rfl
  · exact .inl rfl

@[simp] theorem ioWrite_pageLock (v : Byte) (ch : Chip) :
    ioWrite 7 v ch = { ch with page := v.extractLsb' 6 2, lock := v.extractLsb' 0 6 } := rfl

@[simp] theorem ioWrite_pending (v : Byte) (ch : Chip) : ioWrite 6 v ch = ch := rfl

theorem ioWrite_port (p : Nat) (v : Byte) (ch : Chip) (h : p ≤ 5) :
    ioWrite p v ch = outWrite p v ch := by
  simp [ioWrite, h]

theorem ioWrite_paged (i : Nat) (v : Byte) (ch : Chip) (h : i ≤ 2) :
    ioWrite (8 + i) v ch = pagedWrite i v ch := by
  have h1 : ¬(8 + i ≤ 5) := by omega
  have h2 : ¬(8 + i = 7) := by omega
  have h3 : 8 + i ≤ 10 := by omega
  simp [ioWrite, h1, h2, h3]

/-- Edge capture changes the latches of one port and nothing else (R173). -/
theorem captureIf_cases (p : Nat) (old new : Byte) (ch : Chip) :
    captureIf p old new ch = ch ∨ captureIf p old new ch = capture p old new ch := by
  unfold captureIf; split
  · exact .inr rfl
  · exact .inl rfl

/-- The parts of a chip no bus write reaches (R121): the image, the queue, the locks, the waiter sets, the
sequencer, the inputs. -/
structure SameBeyondWindow (a b : Chip) : Prop where
  img : a.img = b.img
  buf : a.buf = b.buf
  qin : a.qin = b.qin
  qout : a.qout = b.qout
  qcnt : a.qcnt = b.qcnt
  wlock : a.wlock = b.wlock
  qlock : a.qlock = b.qlock
  waiters : a.waiters = b.waiters
  woken : a.woken = b.woken
  iss : a.iss = b.iss
  ext : a.ext = b.ext
  draws : a.draws = b.draws

theorem ioWrite_sameBeyondWindow (off : Nat) (v : Byte) (ch : Chip) :
    SameBeyondWindow (ioWrite off v ch) ch := by
  unfold ioWrite outWrite captureIf pagedWrite capture
  split
  · split
    · constructor <;> rfl
    · split <;> constructor <;> rfl
  · split
    · constructor <;> rfl
    · split
      · split
        · constructor <;> rfl
        · split
          · constructor <;> rfl
          · split <;> constructor <;> rfl
      · constructor <;> rfl

/-! ### The page switch -/

/-- What SELECT writes back: the page asked for and the lock bits just read (R123). -/
theorem select_byte (pg pg' : BitVec 2) (l : BitVec 6) :
    ((pg ++ l : Byte) &&& 0x3F#8) ||| pageCode pg' = (pg' ++ l : Byte) := by
  have h : ∀ (pg pg' : BitVec 2) (l : BitVec 6),
      ((pg ++ l : Byte) &&& 0x3F#8) ||| pageCode pg' = (pg' ++ l : Byte) := by decide
  exact h pg pg' l

@[simp] theorem pageLock_page (pg : BitVec 2) (l : BitVec 6) :
    (pg ++ l : Byte).extractLsb' 6 2 = pg := by
  have h : ∀ (pg : BitVec 2) (l : BitVec 6), (pg ++ l : Byte).extractLsb' 6 2 = pg := by decide
  exact h pg l

@[simp] theorem pageLock_lock (pg : BitVec 2) (l : BitVec 6) :
    (pg ++ l : Byte).extractLsb' 0 6 = l := by
  have h : ∀ (pg : BitVec 2) (l : BitVec 6), (pg ++ l : Byte).extractLsb' 0 6 = l := by decide
  exact h pg l

/-- The second step of SELECT, after its first has read the page/lock register (R123). -/
theorem selectWrite_effect (pg pg' : BitVec 2) (l : BitVec 6) (n : Nat) (tmp : Temps) (ch : Chip)
    (h : tmp.t = pg ++ l) :
    selectWrite pg' n tmp ch = .goto n tmp { ch with page := pg', lock := l } := by
  simp [selectWrite, writeFrom, h, select_byte]

@[simp] theorem selectRead_effect (c n : Nat) (tmp : Temps) (ch : Chip) :
    selectRead c n tmp ch = .goto n { tmp with t := ch.page ++ ch.lock } ch := rfl

/-! ### Bytes -/

theorem pend_eq_zero (ch : Chip) :
    pend ch = 0 ↔ bankRead ch.intId 0 0 = 0 ∧ bankRead ch.intId 1 0 = 0 ∧ bankRead ch.intId 2 0 = 0 := by
  have h : ∀ a b c : Bool,
      (BitVec.ofBool c ++ BitVec.ofBool b ++ BitVec.ofBool a : BitVec 3) = 0 ↔
        a = false ∧ b = false ∧ c = false := by decide
  simp only [pend, h, pendBit, bne_eq_false_iff_eq]

/-- The low three bits of a read of offset 6 are the summary, whatever the others are (R33). -/
theorem pending_masked (hi : BitVec 5) (p : BitVec 3) : (hi ++ p : Byte).extractLsb' 0 3 = p := by
  have h : ∀ (hi : BitVec 5) (p : BitVec 3), (hi ++ p : Byte).extractLsb' 0 3 = p := by decide
  exact h hi p

theorem lsb_lt (v : Byte) : lsb v < 8 := by
  unfold lsb; repeat' (split; · omega)
  omega

/-- `lsb` of a non-zero byte is its least set bit (R8). -/
theorem lsb_spec (v : Byte) (h : v ≠ 0) :
    v.getLsbD (lsb v) = true ∧ ∀ j, j < lsb v → v.getLsbD j = false := by
  have hd : ∀ v : Byte, v ≠ 0 →
      v.getLsbD (lsb v) = true ∧ ∀ j, j < 8 → j < lsb v → v.getLsbD j = false := by decide
  exact ⟨(hd v h).1, fun j hj => (hd v h).2 j (lt_trans hj (lsb_lt v)) hj⟩

theorem portOf_le {b : Nat} (h : b ≤ 24) : portOf b ≤ 2 := by unfold portOf; omega

theorem portOf_le_five {b : Nat} (h : b ≤ 48) : portOf b ≤ 5 := by unfold portOf; omega

/-- `bitno` is the inverse of `port` and `pos` (R9). -/
theorem bitNo_portOf (b : Nat) (h : 1 ≤ b) : bitNo (portOf b) (posOf b) = b := by
  unfold bitNo portOf posOf; omega

theorem portOf_bitNo (p j : Nat) (h : j < 8) : portOf (bitNo p j) = p := by
  unfold bitNo portOf; omega

theorem posOf_bitNo (p j : Nat) (h : j < 8) : posOf (bitNo p j) = j := by
  unfold bitNo posOf; omega

/-! ### The queue -/

/-- PUSH keeps the event buffer's canonical form. -/
theorem push_buf_wf (e : EventNo) (ch : Chip) (h : Memory.wf ch.buf) : Memory.wf (push e ch).buf :=
  memStore_wf _ _ _ ch.qin.isLt h

/-- POP does not touch the event buffer (R202). -/
@[simp] theorem popChip_buf (ch : Chip) : (popChip ch).buf = ch.buf := by
  unfold popChip; split <;> rfl

@[simp] theorem ioWrite_buf (off : Nat) (v : Byte) (ch : Chip) : (ioWrite off v ch).buf = ch.buf :=
  (ioWrite_sameBeyondWindow off v ch).buf

@[simp] theorem afterRead_buf (off : Nat) (ch : Chip) : (afterRead off ch).buf = ch.buf := by
  rcases afterRead_cases off ch with h | h <;> rw [h]

@[simp] theorem resetWith_buf (ext : Vector Byte 6) (n : Nat) : (Chip.resetWith ext n).buf = [] := rfl

/-! ### Running a micro-program -/

@[simp] theorem runProgram_zero (p : Program) (u : Nat) (tmp : Temps) (ch : Chip) :
    runProgram p 0 u tmp ch = .waiting u tmp ch := rfl

theorem runProgram_wait (p : Program) (n u : Nat) (tmp : Temps) (ch : Chip)
    (h : p u tmp ch = .wait) : runProgram p n u tmp ch = .waiting u tmp ch := by
  cases n <;> simp [runProgram, h]

theorem runProgram_goto (p : Program) (n u u' : Nat) (tmp tmp' : Temps) (ch ch' : Chip)
    (h : p u tmp ch = .goto u' tmp' ch') :
    runProgram p (n + 1) u tmp ch = runProgram p n u' tmp' ch' := by
  simp [runProgram, h]

theorem runProgram_respond (p : Program) (n u : Nat) (tmp : Temps) (ch ch' : Chip) (st : Status)
    (v : Byte) (h : p u tmp ch = .respond st v ch') :
    runProgram p (n + 1) u tmp ch = .answered st v ch' := by
  simp [runProgram, h]

/-! ### In-flight records -/

/-- A record whose word decodes is of the command it decodes to. -/
theorem commandOf_of_decode {r : InFlight} {i : Instr} (h : decode r.word = .ok i) :
    commandOf r = some i := by
  simp [commandOf, h, Except.toOption]

/-- A step number of a micro-program keeps its value in the 6 bits of the record (R50). -/
theorem upc_toNat {u : Nat} (h : u ≤ longestProgram) : (BitVec.ofNat 6 u).toNat = u := by
  unfold longestProgram at h
  rw [BitVec.toNat_ofNat]
  omega

/-! ### Issue -/

/-- Everything an issue can do (R250, R255): turned away, a fault, or accepted. -/
theorem issueThen_cases (k : Nat) (i : Instr) (f : State → State) (s : State) :
    (s.busy k = true ∧ issueThen k i f s = .refused .consumerBusy) ∨
      (s.busy k = false ∧ ∃ st, issueFault i s = some st ∧
        issueThen k i f s = .next (s.deliver k st 0)) ∨
      (s.busy k = false ∧ issueFault i s = none ∧ issueThen k i f s = .next (f s)) := by
  unfold issueThen
  by_cases hb : s.busy k = true
  · simp [hb]
  · cases hf : issueFault i s <;> simp_all [raiseFault]

/-- The checks pass exactly for a present chip and an index in range (R252, R253, R255). -/
theorem issueFault_none (i : Instr) (s : State) :
    issueFault i s = none ↔ s.present i.chipField = true ∧ indexOk i = true := by
  unfold issueFault
  cases s.present i.chipField <;> cases indexOk i <;> simp

/-- An accepted command is well-formed: its operands fit the fields of its word. -/
theorem accepted_wellFormed (i : Instr) (s : State) (hp : s.present i.chipField = true)
    (hi : indexOk i = true) : WellFormed i := by
  have hc := slotIx_lt hp
  have h8 : i.chipField < 8 := by unfold slotIx at hc; split at hc <;> omega
  refine ⟨h8, ?_⟩
  cases i <;> simp [indexOk, Instr.indexField] at hi ⊢ <;> omega

theorem command_accepted (i : Instr) (p : Program) (s : State) (hb : s.busy s.cur = false)
    (hp : s.present i.chipField = true) (hi : indexOk i = true) :
    command i p s =
      .next (settle s.cur (encode i) i.chipField
        (runProgram p longestProgram 1 {} (s.chip i.chipField)) s) := by
  have := (issueFault_none i s).mpr ⟨hp, hi⟩
  simp [command, issueThen, hb, this]

/-- An accepted command that answers: its chip, the response, and nothing else. -/
theorem command_answers (i : Instr) (p : Program) (s : State) (st : Status) (v : Byte) (ch : Chip)
    (hb : s.busy s.cur = false) (hp : s.present i.chipField = true) (hi : indexOk i = true)
    (h : runProgram p longestProgram 1 {} (s.chip i.chipField) = .answered st v ch) :
    command i p s = .next ((s.setChip i.chipField ch).deliver s.cur st v) := by
  rw [command_accepted i p s hb hp hi, h]
  have : (s.setChip i.chipField ch).endFlight s.cur = s.setChip i.chipField ch :=
    endFlight_idle _ _ (by simpa using hb)
  simp [settle, this]

/-- An accepted command that must wait: its chip, its in-flight record, and nothing else. -/
theorem command_waits (i : Instr) (p : Program) (s : State) (u : Nat) (tmp : Temps) (ch : Chip)
    (hb : s.busy s.cur = false) (hp : s.present i.chipField = true) (hi : indexOk i = true)
    (h : runProgram p longestProgram 1 {} (s.chip i.chipField) = .waiting u tmp ch) :
    command i p s =
      .next ((s.setChip i.chipField ch).setFlight s.cur ⟨encode i, BitVec.ofNat 6 u, tmp⟩) := by
  rw [command_accepted i p s hb hp hi, h]
  rfl

/-! ### Agents -/

/-- Everything a step of a consumer can do (R11, R50). -/
theorem consumerStep_cases (k : Nat) (s : State) :
    (consumerMicro k s = .wait ∧ consumerStep k s = s) ∨
      (∃ r i u tmp ch, s.flight k = some r ∧ commandOf r = some i ∧
        s.present i.chipField = true ∧
        programOf k (s.irqMode i.chipField) i r.upc.toNat r.tmp (s.chip i.chipField)
          = .goto u tmp ch ∧
        consumerStep k s =
          (s.setChip i.chipField ch).setFlight k ⟨r.word, BitVec.ofNat 6 u, tmp⟩) ∨
      (∃ r i st v ch, s.flight k = some r ∧ commandOf r = some i ∧
        s.present i.chipField = true ∧
        programOf k (s.irqMode i.chipField) i r.upc.toNat r.tmp (s.chip i.chipField)
          = .respond st v ch ∧
        consumerStep k s = ((s.setChip i.chipField ch).endFlight k).deliver k st v) := by
  unfold consumerStep consumerMicro
  cases hf : s.flight k with
  | none => simp
  | some r =>
    cases hc : commandOf r with
    | none => simp [hc]
    | some i =>
      simp only [hc, commandMicro]
      by_cases hp : s.present i.chipField = true
      · simp only [hp, if_true]
        cases hm : programOf k (s.irqMode i.chipField) i r.upc.toNat r.tmp (s.chip i.chipField) with
        | wait => simp
        | goto u tmp ch => exact .inr (.inl ⟨r, i, u, tmp, ch, rfl, hc, hp, hm, rfl⟩)
        | respond st v ch => exact .inr (.inr ⟨r, i, st, v, ch, rfl, hc, hp, hm, rfl⟩)
      · simp [hp]

/-- Everything a step of `ISS[c]` can do (R214, R215). -/
theorem issStep_cases (c : Nat) (s : State) :
    issStep c s = s ∨
      ∃ u tmp ch, s.irqMode c = true ∧
        progIss c (s.chip c).iss.upc.toNat (s.chip c).iss.tmp (s.chip c) = .goto u tmp ch ∧
        issStep c s = s.setChip c { ch with iss := ⟨BitVec.ofNat 6 u, tmp⟩ } := by
  unfold issStep issMicro
  by_cases hi : s.irqMode c = true
  · simp only [hi, if_true]
    cases hm : progIss c (s.chip c).iss.upc.toNat (s.chip c).iss.tmp (s.chip c) with
    | wait => exact .inl rfl
    | goto u tmp ch => exact .inr ⟨u, tmp, ch, trivial, rfl, rfl⟩
    | respond st v ch => exact .inl rfl
  · simp [hi]

/-- Everything the environment's `EnvSet` can do (R172). -/
theorem envSet_cases (c p : Nat) (v : Byte) (s : State) :
    (s.present c = true ∧ p ≤ 5 ∧
        envSet c p v s = .next (s.setChip c (extWrite p v (s.chip c)))) ∨
      envSet c p v s = .refused .noSuchLine := by
  unfold envSet
  split
  · rename_i h; exact .inl ⟨h.1, h.2, rfl⟩
  · exact .inr rfl

/-- Everything the environment's `EnvWake` can do (R216). -/
theorem envWake_cases (c : Nat) (s : State) :
    (s.present c = true ∧ envWake c s = .next (s.setChip c (wake (s.chip c)))) ∨
      envWake c s = .refused .noSuchLine := by
  unfold envWake
  split
  · rename_i h; exact .inl ⟨h, rfl⟩
  · exact .inr rfl

/-- The commands' micro-programs, one lemma a command: what `exec` runs is what the fine-grained steps
run. -/
theorem exec_programs (s : State) :
    (∀ c off, execReadPort c off s =
        command (.readPort c off) (programOf s.cur (s.irqMode c) (.readPort c off)) s) ∧
      (∀ c off v, execWritePort c off v s =
        command (.writePort c off v) (programOf s.cur (s.irqMode c) (.writePort c off v)) s) ∧
      (∀ c b, execReadBit c b s =
        command (.readBit c b) (programOf s.cur (s.irqMode c) (.readBit c b)) s) ∧
      (∀ c b v, execWriteBit c b v s =
        command (.writeBit c b v) (programOf s.cur (s.irqMode c) (.writeBit c b v)) s) ∧
      (∀ c b, execSetBit c b s =
        command (.setBit c b) (programOf s.cur (s.irqMode c) (.setBit c b)) s) ∧
      (∀ c b, execClrBit c b s =
        command (.clrBit c b) (programOf s.cur (s.irqMode c) (.clrBit c b)) s) ∧
      (∀ c b v, execEnableInt c b v s =
        command (.enableInt c b v) (programOf s.cur (s.irqMode c) (.enableInt c b v)) s) ∧
      (∀ c b, execDisableInt c b s =
        command (.disableInt c b) (programOf s.cur (s.irqMode c) (.disableInt c b)) s) ∧
      (∀ c b, execClearInt c b s =
        command (.clearInt c b) (programOf s.cur (s.irqMode c) (.clearInt c b)) s) ∧
      (∀ c, execGetInt c s = command (.getInt c) (programOf s.cur (s.irqMode c) (.getInt c)) s) ∧
      (∀ c, execWaitInt c s = command (.waitInt c) (programOf s.cur (s.irqMode c) (.waitInt c)) s) ∧
      (∀ c p, execClearIntId c p s =
        command (.clearIntId c p) (programOf s.cur (s.irqMode c) (.clearIntId c p)) s) ∧
      (∀ c p, execLockPort c p s =
        command (.lockPort c p) (programOf s.cur (s.irqMode c) (.lockPort c p)) s) ∧
      (∀ c p, execUnlockPort c p s =
        command (.unlockPort c p) (programOf s.cur (s.irqMode c) (.unlockPort c p)) s) := by
  refine ⟨?_, ?_, ?_, ?_, ?_, ?_, ?_, ?_, ?_, ?_, ?_, ?_, ?_, ?_⟩ <;> intros <;> rfl

end Sys2Proof.Laws
end

