-- ==== Sys2Proof/Laws/PerInstr.lean ====
section
/-! SUPPORT. One lemma a command about its encoding: the word carries the command's opcode and zero in
its reserved bits (R90, R92, R96). -/

namespace Sys2Proof.Laws.OpcodeField

/-- A well-formed command's word has the command's opcode in bits 23:20 and zero in `rsv1` and `rsv2`. -/
def Statement (i : Instr) : Prop :=
  WellFormed i → opcodeOf (encode i) = opcode i ∧ reservedZero (encode i) = true

theorem opcode_lt (i : Instr) : opcode i < 16 := by cases i <;> simp [opcode]

/-- The lemma for any command. -/
theorem of_opcode (i : Instr) : Statement i := by
  intro hw
  obtain ⟨h1, -, -, -, h5, h6⟩ :=
    packed_fields (opcode i) i.chipField i.indexField i.dataField.toNat (opcode_lt i) hw.1 hw.2
      i.dataField.isLt
  unfold encode
  exact ⟨(opcodeOf_ofNat _).trans h1, reservedZero_ofNat _ h5 h6⟩

theorem readPort (c x : Nat) : Statement (.readPort c x) := of_opcode _
theorem writePort (c x : Nat) (v : Byte) : Statement (.writePort c x v) := of_opcode _
theorem readBit (c x : Nat) : Statement (.readBit c x) := of_opcode _
theorem writeBit (c x : Nat) (v : Byte) : Statement (.writeBit c x v) := of_opcode _
theorem setBit (c x : Nat) : Statement (.setBit c x) := of_opcode _
theorem clrBit (c x : Nat) : Statement (.clrBit c x) := of_opcode _
theorem enableInt (c x : Nat) (v : Byte) : Statement (.enableInt c x v) := of_opcode _
theorem disableInt (c x : Nat) : Statement (.disableInt c x) := of_opcode _
theorem clearInt (c x : Nat) : Statement (.clearInt c x) := of_opcode _
theorem getInt (c : Nat) : Statement (.getInt c) := of_opcode _
theorem waitInt (c : Nat) : Statement (.waitInt c) := of_opcode _
theorem clearIntId (c x : Nat) : Statement (.clearIntId c x) := of_opcode _
theorem lockPort (c x : Nat) : Statement (.lockPort c x) := of_opcode _
theorem unlockPort (c x : Nat) : Statement (.unlockPort c x) := of_opcode _

end Sys2Proof.Laws.OpcodeField
end

