-- ==== Sys2Proof/Laws/Step.lean ====
section
/-! SUPPORT. What `exec` and `step` can do, said once. -/

namespace Sys2Proof.Laws

open Sys2Proof.Machine

/-- Every command's meaning is its micro-program, run after issue by the consumer at the port. -/
theorem exec_eq_command (i : Instr) (s : State) :
    exec i s = command i (programOf s.cur (s.irqMode i.chipField) i) s := by
  cases i <;> rfl

/-- Everything `exec` can do. -/
theorem exec_cases (i : Instr) (s : State) :
    (s.busy s.cur = true ∧ exec i s = .refused .consumerBusy) ∨
      (s.busy s.cur = false ∧ ∃ st, issueFault i s = some st ∧
        exec i s = .next (s.deliver s.cur st 0)) ∨
      (s.busy s.cur = false ∧ issueFault i s = none ∧
        exec i s = .next (settle s.cur (encode i) i.chipField
          (runProgram (programOf s.cur (s.irqMode i.chipField) i) longestProgram 1 {}
            (s.chip i.chipField)) s)) := by
  rw [exec_eq_command]
  exact issueThen_cases s.cur i _ s

/-- A freely chosen move is taken, or nothing happens. -/
theorem fireChosen_cases (e : Config.Event) (s t : State) (h : fireChosen e s = .next t) :
    fire e s = .next t ∨ t = s := by
  unfold fireChosen at h
  cases hf : fire e s with
  | next u => rw [hf] at h; exact .inl h
  | fault f => rw [hf] at h; cases h
  | refused r => rw [hf] at h; cases h; exact .inr rfl

/-- Everything a step can do: the planned move, or a freely chosen one that may come to nothing. -/
theorem step_cases (s t : State) (h : step s = .next t) :
    legalBoard s.cfg = true ∧
      ((∃ e rest, s.agenda = e :: rest ∧ fire e { s with agenda := rest } = .next t) ∨
        (s.agenda = [] ∧
          (fire (Config.nextEvent s.clock) { s with clock := s.clock + 1 } = .next t ∨
            t = { s with clock := s.clock + 1 }))) := by
  unfold step at h
  split at h
  · rename_i hl
    refine ⟨hl, ?_⟩
    split at h
    · rename_i e rest ha
      exact .inl ⟨e, rest, ha, h⟩
    · rename_i ha
      exact .inr ⟨ha, fireChosen_cases _ _ _ h⟩
  · cases h

/-- To keep a property that no counter, plan or command port touches, a step need only keep it under
each kind of move. -/
theorem step_keeps (P : State → Prop)
    (hfree : ∀ s a u k, P s → P { s with agenda := a, clock := u, cur := k })
    (hfire : ∀ e s t, P s → fire e s = .next t → P t)
    (s t : State) (hs : P s) (h : step s = .next t) : P t := by
  obtain ⟨-, ⟨e, rest, -, hf⟩ | ⟨-, hf | rfl⟩⟩ := step_cases s t h
  · exact hfire e _ t (hfree s rest s.clock s.cur hs) hf
  · exact hfire _ _ t (hfree s s.agenda (s.clock + 1) s.cur hs) hf
  · exact hfree s s.agenda (s.clock + 1) s.cur hs

end Sys2Proof.Laws
end

