-- ==== Sys2Proof/Tests/Slice0.lean ====
section
/-! SUPPORT. The model's own tests.  Expected results are the spec's worked examples and vectors
(95_test_vectors.md and the rules named); then one witness for the hypotheses of each statement in
Certificates/Slice0/Obligations.lean. -/

namespace Sys2Proof.Tests

open Sys2Proof.Machine Sys2Proof.Safety

/-! ### Helpers -/

/-- CFG-A after reset (chip 1 IRQ-driven), and CFG-B after reset (chip 1 polled). -/
abbrev stA : State := State.reset
abbrev stB : State := State.resetFrom Config.boardB (Vector.replicate 4 (Vector.replicate 6 0))

/-- The state with chip 1 changed. -/
def chip1 (f : Chip → Chip) (s : State) : State := s.setChip 1 (f (s.chip 1))

/-- The state with one move planned. -/
def planned (e : Config.Event) (s : State) : State := { s with agenda := [e] }

/-- The state a step or a command ends in, and the last response word in it. -/
def after (o : Host.Outcome State Fault Refusal) : Option State :=
  match o with
  | .next t => some t
  | .fault _ => none
  | .refused _ => none

def answer (o : Host.Outcome State Fault Refusal) : Option RspWord :=
  (after o).bind fun t => t.responses.getLast?.map (·.word)

/-- A part of chip 1 after a step or a command. -/
def part {α : Type} (f : Chip → α) (o : Host.Outcome State Fault Refusal) : Option α :=
  (after o).map fun t => f (t.chip 1)

/-! ### Well-formedness: one ill-formed command for each check -/

theorem test_wf_accepts : WellFormed (.readPort 7 63) := by decide
theorem test_wf_chip : ¬WellFormed (.readPort 8 0) := by decide
theorem test_wf_index : ¬WellFormed (.enableInt 1 64 0) := by decide

/-! ### Decoding: words written out from R90 and R96, and the vectors of V1 -/

theorem test_decode_readPort : decode 0b0001_0_001_00_000010_00000000#24 = .ok (.readPort 1 2) := rfl
theorem test_decode_writePort :
    decode 0b0010_0_010_00_000111_11000001#24 = .ok (.writePort 2 7 0xC1) := rfl
theorem test_decode_readBit : decode 0b0011_0_011_00_110000_00000000#24 = .ok (.readBit 3 48) := rfl
theorem test_decode_writeBit :
    decode 0b0100_0_001_00_001101_00000001#24 = .ok (.writeBit 1 13 1) := rfl
theorem test_decode_setBit : decode 0b0101_0_001_00_001101_00000000#24 = .ok (.setBit 1 13) := rfl
theorem test_decode_clrBit : decode 0b0110_0_001_00_001101_00000000#24 = .ok (.clrBit 1 13) := rfl
theorem test_decode_enableInt :
    decode 0b0111_0_001_00_011000_00000000#24 = .ok (.enableInt 1 24 0) := rfl
theorem test_decode_disableInt :
    decode 0b1000_0_001_00_000101_00000000#24 = .ok (.disableInt 1 5) := rfl
theorem test_decode_clearInt : decode 0b1001_0_001_00_000101_00000000#24 = .ok (.clearInt 1 5) := rfl
theorem test_decode_getInt : decode 0b1010_0_001_00_000000_00000000#24 = .ok (.getInt 1) := rfl
theorem test_decode_waitInt : decode 0b1011_0_010_00_000000_00000000#24 = .ok (.waitInt 2) := rfl
theorem test_decode_clearIntId :
    decode 0b1100_0_001_00_000010_00000000#24 = .ok (.clearIntId 1 2) := rfl
theorem test_decode_lockPort : decode 0b1101_0_001_00_000010_00000000#24 = .ok (.lockPort 1 2) := rfl
theorem test_decode_unlockPort :
    decode 0b1110_0_001_00_000010_00000000#24 = .ok (.unlockPort 1 2) := rfl

/-- V2: illegal words (R98, R99). -/
theorem test_decode_reserved :
    decode 0x000000#24 = .error .reservedOpcode ∧ decode 0xF10000#24 = .error .reservedOpcode ∧
    decode 0x190200#24 = .error .reservedBits ∧ decode 0x114200#24 = .error .reservedBits ∧
    decode 0x110201#24 = .error .unusedField ∧ decode 0xA10100#24 = .error .unusedField ∧
    decode 0xA10001#24 = .error .unusedField := ⟨rfl, rfl, rfl, rfl, rfl, rfl, rfl⟩

theorem test_encode_enableInt : encode (.enableInt 1 5 1) = 0x710501#24 := by decide
theorem test_encode_unlockPort : encode (.unlockPort 1 7) = 0xE10700#24 := by decide

/-- R99: no two rows of the map select one word. -/
theorem test_rows_disjoint : opcodeMap.Pairwise fun a b =>
    a.matchWord &&& (a.maskWord &&& b.maskWord) ≠ b.matchWord &&& (a.maskWord &&& b.maskWord) := by
  decide

theorem test_table_word : decodeTableWord 24 0xB00000 = some (.waitInt 0) := by decide

/-! ### Operands, containers, derived values -/

/-- S1: bit addressing (R9). -/
theorem test_bits : (portOf 1, posOf 1) = (0, 0) ∧ (portOf 8, posOf 8) = (0, 7) ∧
    (portOf 13, maskOf 13) = (1, 0x10#8) ∧ (portOf 48, maskOf 48) = (5, 0x80#8) ∧
    bitNo 2 7 = 24 := by decide

/-- S10: the least set bit (R8, R184). -/
theorem test_found : foundIn 0 0x90#8 = 5#6 ∧ foundIn 1 0x06#8 = 10#6 ∧ foundIn 2 0x80#8 = 24#6 := by
  decide

/-- R183: POLL's steps d and e leave `r` where the port has no latch; step f makes it 0. -/
theorem test_poll_scan :
    poll 1 2 17 4 { r := 5 } { stA.chip 1 with page := 3, intId := #v[0, 2, 0] } =
      .goto 6 { r := 5 } { stA.chip 1 with page := 3, intId := #v[0, 2, 0] } ∧
    poll 1 2 17 5 { r := 5 } { stA.chip 1 with page := 3, intId := #v[0, 2, 0] } =
      .goto 8 { t := 2, r := 10 } { stA.chip 1 with page := 3, intId := #v[0, 2, 0] } ∧
    poll 1 2 17 6 { r := 5 } { stA.chip 1 with page := 3 } =
      .goto 8 { r := 0 } { stA.chip 1 with page := 3 } := by decide

/-- V6: edge capture (R173). -/
theorem test_edges : edges 0xFF 0x0F 0x33 0xCC = 0x3C#8 ∧ edges 0x10 0x00 0x10 0x00 = 0x10#8 ∧
    edges 0x00 0x10 0x00 0x10 = 0x00#8 := by decide

theorem test_memory_canonical : memStore (memStore (memStore [] 9 1) 3 2) 9 7 = [(3, 2), (9, 7)] := by
  decide

theorem test_ids : idsInsert 2 (idsInsert 5 (idsInsert 2 [])) = [2, 5] ∧ idsRemove 2 [2, 5] = [5] := by
  decide

/-- R61: two windows that overlap, and one that runs over the top, are refused. -/
theorem test_boards : legalBoard Config.boardA = true ∧
    legalBoard #v[⟨0x200, none, true⟩, ⟨0x20A, none, true⟩, .absent, .absent] = false ∧
    legalBoard #v[⟨0xFFF6, none, true⟩, .absent, .absent, .absent] = false := by decide

/-- R10: MemRead finds the register by its host address, and faults where there is none. -/
theorem test_windowOf : windowOf Config.boardA 0x0207 = some (1, 7) ∧
    windowOf Config.boardA 0x020B = none := by decide

/-- R10, R33: a MemRead of offset 6 counts its draw, so that the next one is a fresh one. -/
theorem test_memRead_draws :
    (memRead 0x0206 stA).toOption.map (fun r => (r.2.chip 1).draws) = some 1 ∧
    (memRead 0x0207 stA).toOption = some (0x00, stA) := by decide

/-- V3: `IoRead` by page (R120). -/
theorem test_ioRead_pages :
    ioRead 1 9 { stA.chip 1 with page := 1, pol := #v[0, 0x3C, 0] } = 0x3C#8 ∧
    ioRead 1 9 { stA.chip 1 with page := 2, enab := #v[0, 0x55, 0] } = 0x55#8 ∧
    ioRead 1 10 { stA.chip 1 with page := 3, intId := #v[0, 0, 0x80] } = 0x80#8 ∧
    ioRead 1 7 { stA.chip 1 with page := 3, lock := 0x21 } = 0xE1#8 := by decide

/-- V3: `IoWrite` (R121, R174, R175). -/
theorem test_ioWrite_pages :
    (ioWrite 8 0x0F { stA.chip 1 with page := 2, intId := #v[0x3C, 0, 0] }).intId = #v[0x0C, 0, 0] ∧
    (ioWrite 9 0xFF { stA.chip 1 with page := 3, intId := #v[1, 0xA5, 2] }).intId = #v[1, 0, 2] ∧
    ioWrite 6 0xFF (stA.chip 1) = stA.chip 1 ∧ ioWrite 8 0xFF (stA.chip 1) = stA.chip 1 := by decide

/-- V8: the queue wraps, and when full the oldest event goes (R201). -/
theorem test_push_wraps :
    (push 9 { stA.chip 1 with qin := 1023, qout := 1023 }).qin = 0#10 ∧
    (push 17 { stA.chip 1 with qcnt := 1024 }).qout = 1#10 ∧
    (push 17 { stA.chip 1 with qcnt := 1024 }).qcnt = 1024#11 := by decide

/-! ### Commands: at most two tests each, from V4, V5, V7, V9, V10 -/

theorem test_readPort_line : answer (exec (.readPort 1 2)
    (chip1 (fun c => { c with out := bankWrite c.out 2 0x0F, ext := bankWrite c.ext 2 0xF0 }) stA))
    = some 0x00FF#16 := by decide
theorem test_readPort_pageLock : answer (exec (.readPort 1 7)
    (chip1 (fun c => { c with page := 3, lock := 1 }) stA)) = some 0x00C1#16 := by decide

theorem test_writePort_latches : part Chip.intId (exec (.writePort 1 0 0x03)
    (chip1 (fun c => { c with enab := #v[3, 0, 0], pol := #v[1, 0, 0] }) stA)) = some #v[1, 0, 0] := by
  decide
theorem test_writePort_raw : part (fun c => (c.page, c.lock)) (exec (.writePort 1 7 0xC1) stA)
    = some (3, 1) := by decide

theorem test_readBit_external : answer (exec (.readBit 1 5)
    (chip1 (fun c => { c with ext := bankWrite c.ext 0 0x10 }) stA)) = some 0x0001#16 := by decide

theorem test_writeBit_nonzero : part (fun c => (c.out, c.img)) (exec (.writeBit 1 13 0x80)
    (chip1 (fun c => { c with out := bankWrite c.out 1 3, img := bankWrite c.img 1 3 }) stA))
    = some (#v[0, 0x13, 0, 0, 0, 0], #v[0, 0x13, 0, 0, 0, 0]) := by decide
theorem test_setBit_sibling : part Chip.out (exec (.setBit 1 13)
    (chip1 (fun c => { c with img := bankWrite c.img 1 3, ext := bankWrite c.ext 1 4 }) stA))
    = some #v[0, 0x13, 0, 0, 0, 0] := by decide
theorem test_setBit_locked : part Chip.out (exec (.setBit 1 13)
    (chip1 (fun c => { c with lock := 2 }) stA)) = some (Vector.replicate 6 0) := by decide
theorem test_clrBit : part Chip.out (exec (.clrBit 1 13)
    (chip1 (fun c => { c with img := bankWrite c.img 1 0x13 }) stA))
    = some #v[0, 3, 0, 0, 0, 0] := by decide

theorem test_enableInt_lockKept : part (fun c => (c.enab, c.pol, c.page, c.lock))
    (exec (.enableInt 1 1 1) (chip1 (fun c => { c with lock := 0x2A }) stB))
    = some (#v[1, 0, 0], #v[1, 0, 0], 0, 0x2A) := by decide
theorem test_enableInt_last : part (fun c => (c.enab, c.pol)) (exec (.enableInt 1 24 0) stB)
    = some (#v[0, 0, 0x80], #v[0, 0, 0]) := by decide

theorem test_disableInt : part (fun c => (c.enab, c.intId)) (exec (.disableInt 1 5)
    (chip1 (fun c => { c with enab := #v[0x11, 0, 0], intId := #v[0x10, 0, 0] }) stB))
    = some (#v[0x01, 0, 0], #v[0, 0, 0]) := by decide

theorem test_clearInt : part (fun c => (c.enab, c.intId)) (exec (.clearInt 1 5)
    (chip1 (fun c => { c with enab := #v[0x11, 0, 0], intId := #v[0x11, 0, 0] }) stB))
    = some (#v[0x11, 0, 0], #v[0x01, 0, 0]) := by decide
theorem test_clearInt_arms : part Chip.enab (exec (.clearInt 1 5) stB) = some #v[0x10, 0, 0] := by decide

theorem test_clearIntId : part (fun c => (c.enab, c.intId)) (exec (.clearIntId 1 0)
    (chip1 (fun c => { c with enab := #v[0x11, 0, 0], intId := #v[0x11, 0, 4] }) stB))
    = some (#v[0x11, 0, 0], #v[0, 0, 4]) := by decide

theorem test_getInt_buffered : answer (exec (.getInt 1)
    (chip1 (fun c => { c with buf := [(0, 5)], qin := 1, qcnt := 1 }) stA)) = some 0x0005#16 := by decide
theorem test_waitInt_blocks : (after (exec (.waitInt 1) stA)).map
    (fun t => ((t.chip 1).waiters, (t.flight 0).map (·.upc))) = some ([0], some 4) := by decide
theorem test_waitInt_buffered : answer (exec (.waitInt 1)
    (chip1 (fun c => { c with buf := [(0, 7)], qin := 1, qcnt := 1 }) stA)) = some 0x0007#16 := by decide

theorem test_lockPort : part (fun c => (c.page, c.lock)) (exec (.lockPort 1 1)
    (chip1 (fun c => { c with page := 3, lock := 1 }) stA)) = some (3, 3) := by decide
theorem test_unlockPort : part Chip.lock (exec (.unlockPort 1 2)
    (chip1 (fun c => { c with lock := 5 }) stA)) = some 1 := by decide

/-- V2: the order of the checks (R255). -/
theorem test_faults :
    answer (step (planned (.command 0 0xF50800) stA)) = some 0x0300#16 ∧
    answer (step (planned (.command 0 0x150800) stA)) = some 0x0100#16 ∧
    answer (step (planned (.command 0 0x120200) stA)) = some 0x0100#16 ∧
    answer (step (planned (.command 0 0x110800) stA)) = some 0x0200#16 ∧
    answer (step (planned (.command 0 0x711901) stA)) = some 0x0200#16 := by decide

/-- A placed word runs as the first command after reset. -/
theorem test_fetchWord : answer (step (stA.withFetchWord 24 0x110200)) = some 0x0000#16 := by decide

/-- P1, row 3 (R172): the edge latches. -/
theorem test_envSet : part Chip.intId (step (planned (.envSet 1 0 0x10)
    (chip1 (fun c => { c with enab := #v[0x10, 0, 0], pol := #v[0x10, 0, 0] }) stA)))
    = some #v[0x10, 0, 0] := by decide

/-- R214, R263: a latched bit lets the idle sequencer take the window; its `upc` becomes 2. -/
theorem test_iss_entry : part (fun c => (c.iss.upc, c.wlock)) (step (planned (.iss 1)
    (chip1 (fun c => { c with intId := #v[0x10, 0, 0] }) stA))) = some (2, some .iss) := by decide

/-- R215: step 19 pushes and wakes together. -/
theorem test_iss_push : part (fun c => (c.buf, c.qcnt, c.woken)) (step (planned (.iss 1)
    (chip1 (fun c => { c with iss := ⟨19, { r := 5 }⟩, qlock := some .iss, waiters := [3] }) stA)))
    = some ([(0, 5)], 1, [3]) := by decide

/-- R290, R292: reset clears the chip and keeps the external levels. -/
theorem test_reset : part (fun c => (c.lock, c.ext)) (step (planned .reset
    (chip1 (fun c => { c with lock := 5, ext := bankWrite c.ext 0 0x81 }) stA)))
    = some (0, #v[0x81, 0, 0, 0, 0, 0]) := by decide

end Sys2Proof.Tests
end

