-- ==== Sys2Proof/Tests/Witness.lean ====
section
/-! SUPPORT. For each statement of Certificates/Slice0/Obligations.lean that has hypotheses, a concrete
state and operands that meet them together, clause by clause where it has several. -/

namespace Sys2Proof.Tests

open Sys2Proof.Machine Sys2Proof.Safety

/-! ### States -/

/-- Chip 1 polled, bit 24 latched and enabled: the boundary of the interrupt bits. -/
def latched24 : State := chip1 (fun c => { c with enab := #v[0, 0, 0x80], intId := #v[0, 0, 0x80] }) stB

/-- Chip 1 IRQ-driven, bit 1 latched and enabled. -/
def latched1 : State := chip1 (fun c => { c with enab := #v[1, 0, 0], intId := #v[1, 0, 0] }) stA

/-- One event unread. -/
def oneEvent : State := chip1 (fun c => { c with buf := [(0, 24)], qin := 1, qcnt := 1 }) stA

/-- Consumer 0 blocked in WAIT_INT and woken, IRQ-driven and polled. -/
def wokenA : State :=
  (chip1 (fun c => { c with waiters := [0], woken := [0] }) stA).setFlight 0 ⟨0xB10000, 4, {}⟩
def wokenB : State :=
  (chip1 (fun c => { c with waiters := [0], woken := [0] }) latched24).setFlight 0
    ⟨0xB10000, 21, {}⟩

/-- Consumer 0 inside a page-locked operation, and inside a queue operation. -/
def insideWindow : State :=
  (chip1 (fun c => { c with wlock := some (.consumer 0) }) stB).setFlight 0 ⟨0xA10000, 2, {}⟩
def insideQueue : State :=
  (chip1 (fun c => { c with qlock := some (.consumer 0) }) stA).setFlight 0 ⟨0xA10000, 2, {}⟩
/-- Chip 1 polled, its queue lock held by another consumer that joins the waiters. -/
def queueHeld : State :=
  (chip1 (fun c => { c with qlock := some (.consumer 5) }) stB).setFlight 5 ⟨0xB10000, 19, {}⟩
/-- The sequencer inside a service pass, and about to push. -/
def issInWindow : State := chip1 (fun c => { c with wlock := some .iss, iss := ⟨2, {}⟩ }) stA
def issInQueue : State := chip1 (fun c => { c with qlock := some .iss, iss := ⟨19, {}⟩ }) stA

/-! ### Encoding, issue, faults -/

theorem witness_DecodeUndoesEncode : WellFormed (.enableInt 7 63 0xFF) := by decide

theorem witness_EncodeUndoesDecode : decode 0x77FF_00#24 = .error .reservedBits ∧
    decode 0x773FFF#24 = .ok (.enableInt 7 63 0xFF) := ⟨rfl, rfl⟩

theorem witness_StepRunsDecodedCommand :
    legalBoard (planned (.command 3 0x110200) stA).cfg = true ∧
    (planned (.command 3 0x110200) stA).agenda = .command 3 0x110200#24 :: [] ∧
    decode 0x110200#24 = .ok (.readPort 1 2) ∧
    (planned (.consumer 0) wokenA).agenda = .consumer 0 :: [] ∧
    legalBoard (planned (.consumer 0) wokenA).cfg = true ∧
    (planned (.iss 1) stA).agenda = .iss 1 :: [] ∧ stA.agenda = [] :=
  ⟨by decide, rfl, rfl, rfl, by decide, rfl, rfl⟩

theorem witness_PlacedWordRunsNext :
    legalBoard wokenA.cfg = true ∧ decode 0xE10500#24 = .ok (.unlockPort 1 5) := ⟨by decide, rfl⟩

/-- One word for each cause. -/
theorem witness_IllegalWordAnswersIllegal :
    legalBoard (planned (.command 3 0xF10000) stA).cfg = true ∧
    (planned (.command 3 0xF10000) stA).agenda = .command 3 0xF10000#24 :: [] ∧
    (planned (.issue 3 0x000000) stA).agenda = .issue 3 0x000000#24 :: [] ∧
    (planned (.command 3 0xF10000) stA).busy 3 = false ∧
    (0xF10000#24).extractLsb' 20 4 = 15 ∧ (0x000000#24).extractLsb' 20 4 = 0 ∧
    (0x190200#24).getLsbD 19 = true ∧ (0x114200#24).extractLsb' 14 2 ≠ 0 ∧
    (0x110201#24).extractLsb' 0 8 ≠ 0 ∧ (0xA10100#24).extractLsb' 8 6 ≠ 0 :=
  ⟨by decide, rfl, rfl, by decide, by decide, by decide, by decide, by decide, by decide, by decide⟩

theorem witness_AbsentChipAnswersUnavailable : stA.busy stA.cur = false ∧
    (Instr.readPort 0 0).chipField ∉ [1, 2, 3, 4] ∧ (Instr.getInt 5).chipField ∉ [1, 2, 3, 4] ∧
    (slotOf stA.cfg (Instr.waitInt 4).chipField).base = 0 ∧
    (slotOf #v[⟨1, none, false⟩, .absent, .absent, .absent] (Instr.waitInt 1).chipField).claimOk
      = false := by decide

theorem witness_BadIndexAnswersIndexFault : Ready stA 1 ∧ 7 < 8 ∧ (0 = 0 ∨ 48 < 0) ∧ (49 = 0 ∨ 48 < 49) ∧
    (0 = 0 ∨ 24 < 0) ∧ (25 = 0 ∨ 24 < 25) ∧ 2 < 3 ∧ 5 < 6 := by decide

theorem witness_IssueCreatesRecord :
    legalBoard (planned (.issue 3 0xA10000) stA).cfg = true ∧
    (planned (.issue 3 0xA10000) stA).agenda = .issue 3 0xA10000#24 :: [] ∧
    decode 0xA10000#24 = .ok (.getInt 1) ∧
    (planned (.issue 3 0xA10000) stA).busy 3 = false ∧
    stA.present (Instr.getInt 1).chipField = true ∧ indexOk (.getInt 1) = true ∧
    (planned (.issue 0 0xA10000) insideWindow).busy 0 = true ∧
    stA.present (Instr.getInt 2).chipField = false ∧ stA.busy 3 = false ∧
    indexOk (.readPort 1 8) = false :=
  ⟨by decide, rfl, rfl, by decide, by decide, by decide, by decide, by decide, by decide, rfl⟩

theorem witness_CommandIsItsSteps : stB.busy stB.cur = false ∧
    stB.present (Instr.waitInt 1).chipField = true ∧ indexOk (.waitInt 1) = true := by decide

theorem witness_HeldLockMakesCommandWait :
    Ready (chip1 (fun c => { c with wlock := some .iss, qlock := some .iss }) stA) 1 ∧
    indexOk (.enableInt 1 24 0) = true ∧ indexOk (.getInt 1) = true ∧
    holdsWindow (stA.irqMode 1) (.enableInt 1 24 0) 2 = true ∧
    holdsQueue (stA.irqMode 1) (.getInt 1) 2 = true ∧
    ((chip1 (fun c => { c with wlock := some .iss, qlock := some .iss }) stA).chip 1).wlock ≠ none ∧
    ((chip1 (fun c => { c with wlock := some .iss, qlock := some .iss }) stA).chip 1).qlock ≠ none := by
  decide

/-! ### Commands -/

theorem witness_ReadPortAnswersRegister : Ready stA 1 ∧ 5 ≤ 5 := by decide

theorem witness_WritePortWritesDataPort :
    Ready stA 1 ∧ 5 ≤ 5 ∧ (stA.chip 1).wlock = none ∧ (stA.chip 1).lock.getLsbD 5 = false := by decide

theorem witness_WritePortElsewhere :
    Ready (chip1 (fun c => { c with lock := 0x20 }) stA) 1 ∧
    ((chip1 (fun c => { c with lock := 0x20 }) stA).chip 1).wlock = none ∧ 5 ≤ 5 ∧
    ((chip1 (fun c => { c with lock := 0x20 }) stA).chip 1).lock.getLsbD 5 = true := by decide

theorem witness_ReadBitAnswersLine : Ready stA 1 ∧ 1 ≤ 48 ∧ 48 ≤ 48 := by decide

theorem witness_BitWritesMergeImage : Ready stA 1 ∧ 1 ≤ 48 ∧ 48 ≤ 48 ∧ (stA.chip 1).wlock = none := by
  decide

/-- One state for ENABLE_INT, DISABLE_INT and CLEAR_INT, at the first and the last interrupt bit. -/
theorem witness_InterruptCommands : Ready latched24 1 ∧ 1 ≤ 1 ∧ 24 ≤ 24 ∧
    (latched24.chip 1).wlock = none ∧ LatchesEnabled (latched24.chip 1) := by decide

theorem witness_ClearIntIdClearsPort : Ready latched24 1 ∧ 2 ≤ 2 ∧ (latched24.chip 1).wlock = none := by
  decide

/-- One state for LOCK_PORT and UNLOCK_PORT. -/
theorem witness_LockCommands : Ready stA 1 ∧ 5 ≤ 5 ∧ (stA.chip 1).wlock = none := by decide

/-- One state for buffered GET_INT and WAIT_INT with an event, and reset for the empty queue. -/
theorem witness_BufferedCommands : Ready oneEvent 1 ∧ oneEvent.irqMode 1 = true ∧
    (oneEvent.chip 1).qlock = none ∧ (oneEvent.chip 1).qcnt ≠ 0 ∧
    memRead? (oneEvent.chip 1).buf (oneEvent.chip 1).qout.toNat = some 24 ∧ (24#6) ≠ 0 ∧
    Ready stA 1 ∧ stA.irqMode 1 = true ∧ (stA.chip 1).qlock = none ∧ (stA.chip 1).qcnt = 0 ∧
    stA.cur ∉ (stA.chip 1).woken := by decide

/-- One state for polled GET_INT and WAIT_INT with a latch, and reset for none. -/
theorem witness_PolledCommands : Ready latched24 1 ∧ latched24.irqMode 1 = false ∧
    (latched24.chip 1).wlock = none ∧ LatchesEnabled (latched24.chip 1) ∧
    LowestLatched (latched24.chip 1) 24 ∧
    Ready stB 1 ∧ stB.irqMode 1 = false ∧ (stB.chip 1).wlock = none ∧ (stB.chip 1).qlock = none ∧
    LatchesEnabled (stB.chip 1) ∧ NothingLatched (stB.chip 1) ∧ stB.cur ∉ (stB.chip 1).woken ∧
    Ready queueHeld 1 ∧ queueHeld.irqMode 1 = false ∧ (queueHeld.chip 1).wlock = none ∧
    LatchesEnabled (queueHeld.chip 1) ∧ NothingLatched (queueHeld.chip 1) ∧
    (queueHeld.chip 1).qlock ≠ none := by decide

theorem witness_WokenWaiterAnswers : wokenA.flight 0 = some ⟨0xB10000, 4, {}⟩ ∧
    wokenA.present 1 = true ∧ wokenA.irqMode 1 = true ∧ (wokenA.chip 1).qlock = none ∧
    (wokenA.chip 1).qcnt = 0 ∧ 0 ∈ (wokenA.chip 1).woken ∧
    (oneEvent.setFlight 0 ⟨0xB10000, 4, {}⟩).flight 0 = some ⟨0xB10000, 4, {}⟩ ∧
    ((oneEvent.setFlight 0 ⟨0xB10000, 4, {}⟩).chip 1).qcnt ≠ 0 := by decide

theorem witness_WokenPolledWaiterAnswers : wokenB.flight 0 = some ⟨0xB10000, 21, {}⟩ ∧
    wokenB.present 1 = true ∧ wokenB.irqMode 1 = false ∧ (wokenB.chip 1).qlock = none ∧
    (wokenB.chip 1).wlock = none ∧ 0 ∈ (wokenB.chip 1).woken ∧ LatchesEnabled (wokenB.chip 1) ∧
    LowestLatched (wokenB.chip 1) 24 ∧
    NothingLatched ((chip1 (fun c => { c with intId := #v[0, 0, 0] }) wokenB).chip 1) ∧
    LatchesEnabled ((chip1 (fun c => { c with intId := #v[0, 0, 0] }) wokenB).chip 1) := by decide

theorem witness_UnwokenWaiterStays :
    stA.present 1 = true ∧ stB.present 1 = true ∧ stA.irqMode 1 = true ∧
    (stA.setFlight 0 ⟨0xB10000, 4, {}⟩).flight 0 = some ⟨0xB10000, 4, {}⟩ ∧
    (stA.chip 1).qcnt = 0 ∧ stB.irqMode 1 = false ∧
    (stB.setFlight 0 ⟨0xB10000, 21, {}⟩).flight 0 = some ⟨0xB10000, 21, {}⟩ ∧
    0 ∉ (stA.chip 1).woken ∧ 0 ∉ (stB.chip 1).woken := by decide

/-! ### Hardware, environment, queue -/

/-- Chip 1 with each page selected in turn: the hypotheses of the bus-access statements. -/
theorem witness_BusAccesses : 2 ≤ 2 ∧ ({ stA.chip 1 with page := 2 } : Chip).page = 2 ∧
    ({ stA.chip 1 with page := 3 } : Chip).page = 3 ∧ ({ stA.chip 1 with page := 1 } : Chip).page = 1 ∧
    (stA.chip 1).page = 0 ∧ 5 ≤ 5 ∧
    bankRead (stA.chip 1).enab 2 0 &&& ((0xFF#8 ||| bankRead (stA.chip 1).ext 2 0) ^^^
      (bankRead (stA.chip 1).out 2 0 ||| bankRead (stA.chip 1).ext 2 0)) = 0 := by decide

theorem witness_SelectKeepsLockBits :
    selectRead 1 3 {} (stA.chip 1) = .goto 3 { t := 0 } (stA.chip 1) := by decide

theorem witness_EnvSetDrivesLines :
    legalBoard (planned (.envSet 1 5 0xFF) stA).cfg = true ∧
    (planned (.envSet 1 5 0xFF) stA).agenda = .envSet 1 5 0xFF :: [] ∧
    (planned (.envSet 1 5 0xFF) stA).present 1 = true ∧ 5 ≤ 5 := by decide

theorem witness_EnvWakeReleasesWaiters :
    legalBoard (planned (.envWake 1) stA).cfg = true ∧
    (planned (.envWake 1) stA).agenda = .envWake 1 :: [] ∧
    (planned (.envWake 1) stA).present 1 = true := by decide

theorem witness_WindowAddressesAreUnique :
    legalBoard Config.boardA = true ∧ presentIn Config.boardA 1 = true ∧ 10 ≤ 10 := by decide

/-- A full queue and one with one event, both consistent. -/
theorem witness_Queue : QueueConsistent ({ stA.chip 1 with qcnt := 1024 } : Chip) ∧
    QueueConsistent (oneEvent.chip 1) ∧ (oneEvent.chip 1).qcnt ≠ 0 ∧
    memRead? (oneEvent.chip 1).buf (oneEvent.chip 1).qout.toNat = some 24 ∧
    QueueConsistent (stA.chip 1) ∧ (stA.chip 1).qcnt = 0 := by decide

theorem witness_IssPassServicesLowestBit : latched1.irqMode 1 = true ∧
    (latched1.chip 1).iss.upc = 0 ∧ (latched1.chip 1).wlock = none ∧ (latched1.chip 1).qlock = none ∧
    LatchesEnabled (latched1.chip 1) ∧ LowestLatched (latched1.chip 1) 1 := by decide

theorem witness_IssTakesNoStepUnrequested : stB.irqMode 1 = false ∧ (stA.chip 1).iss.upc = 0 ∧
    NothingLatched (stA.chip 1) ∧ (insideWindow.chip 1).iss.upc = 0 ∧ (insideWindow.chip 1).wlock ≠ none := by
  decide

theorem witness_ResetMoveNeedsQuiescence :
    legalBoard (planned .reset stA).cfg = true ∧ (planned .reset stA).agenda = .reset :: [] ∧
    (planned .reset stA).inflight = [] ∧
    (∀ c, c ∈ slotNumbers → ((planned .reset stA).chip c).iss.upc = 0) ∧
    (planned .reset wokenA).inflight ≠ [] ∧
    (∃ c, c ∈ slotNumbers ∧ ((planned .reset issInWindow).chip c).iss.upc ≠ 0) := by decide

/-! ### Invariants -/

/-- A chip slot that is present in CFG-A or CFG-B is slot 1. -/
theorem present_one_A (c : Nat) (h : presentIn Config.boardA c = true) : c = 1 := by
  have := Laws.present_mem h
  simp only [slotNumbers, List.mem_cons, List.not_mem_nil, or_false] at this
  rcases this with rfl | rfl | rfl | rfl <;> first | rfl | exact absurd h (by decide)

theorem present_one_B (c : Nat) (h : presentIn Config.boardB c = true) : c = 1 := by
  have := Laws.present_mem h
  simp only [slotNumbers, List.mem_cons, List.not_mem_nil, or_false] at this
  rcases this with rfl | rfl | rfl | rfl <;> first | rfl | exact absurd h (by decide)

/-- A step exists from the reset state with a move planned, under every invariant that holds there. -/
theorem witness_StepKeepsChipInvariants : EveryChip ImageMatches (planned (.envWake 1) stA) ∧
    EveryChip LatchesEnabled (planned (.envWake 1) stA) ∧
    EveryChip BufferCanonical (planned (.envWake 1) stA) ∧
    EveryChip WaitersCanonical (planned (.envWake 1) stA) ∧
    EveryChip EventsInRange (planned (.envWake 1) stA) ∧
    (∀ c, (planned (.envWake 1) stA).irqMode c = false → ((planned (.envWake 1) stA).chip c).qcnt = 0) ∧
    ∃ t, step (planned (.envWake 1) stA) = .next t := by
  refine ⟨?_, ?_, ?_, ?_, ?_, ?_, _, rfl⟩
  · unfold EveryChip; decide
  · unfold EveryChip; decide
  · unfold EveryChip; decide
  · unfold EveryChip; decide
  · intro c hc
    refine ⟨?_, ?_, ?_⟩
    · revert c; decide
    · revert c; decide
    · intro j hj
      have : ∀ c, c ∈ slotNumbers → ((planned (.envWake 1) stA).chip c).qcnt.toNat = 0 := by decide
      rw [this c hc] at hj
      omega
  · intro c _
    show ((State.resetFrom Config.boardA (Vector.replicate 4 (Vector.replicate 6 0))).chip c).qcnt = 0
    rw [Laws.resetFrom_chip]; rfl

theorem commandOf_getInt (u : BitVec 6) (t : Temps) :
    commandOf ⟨0xA10000#24, u, t⟩ = some (.getInt 1) := by
  show (decode 0xA10000#24).toOption = _
  decide

theorem commandOf_waitInt (u : BitVec 6) (t : Temps) :
    commandOf ⟨0xB10000#24, u, t⟩ = some (.waitInt 1) := by
  show (decode 0xB10000#24).toOption = _
  decide

theorem flight_insideWindow (k : Nat) :
    insideWindow.flight k = if k = 0 then some ⟨0xA10000, 2, {}⟩ else none := by
  by_cases h : k = 0
  · subst h; rfl
  · rw [if_neg h]; exact if_neg (fun hc => h hc.symm)

theorem flight_insideQueue (k : Nat) :
    insideQueue.flight k = if k = 0 then some ⟨0xA10000, 2, {}⟩ else none := by
  by_cases h : k = 0
  · subst h; rfl
  · rw [if_neg h]; exact if_neg (fun hc => h hc.symm)

/-- A consumer holding the window, under the lock discipline. -/
theorem witness_LockHoldsAreBounded_window : LocksHeld insideWindow ∧ insideWindow.present 1 = true ∧
    (insideWindow.chip 1).wlock = some (.consumer 0) := by
  refine ⟨fun c hc => ?_, by decide, by decide⟩
  obtain rfl := present_one_B c hc
  have hw : (insideWindow.chip 1).wlock = some (.consumer 0) := by decide
  have hq : (insideWindow.chip 1).qlock = none := by decide
  have hm : insideWindow.irqMode 1 = false := by decide
  refine ⟨fun k => ?_, ?_, fun k => ?_, ?_⟩
  · by_cases h : k = 0
    · subst h; simp [hw, hm, commandStands, flight_insideWindow, commandOf_getInt, Instr.chipField, holdsWindow]
    · simp [hw, commandStands, flight_insideWindow, h, Ne.symm h]
  · simp [hw, hm]
  · by_cases h : k = 0
    · subst h; simp [hq, hm, commandStands, flight_insideWindow, commandOf_getInt, holdsQueue]
    · simp [hq, commandStands, flight_insideWindow, h]
  · simp [hq, hm]

/-- A consumer holding the queue, under the lock discipline. -/
theorem witness_LockHoldsAreBounded_queue : LocksHeld insideQueue ∧ insideQueue.present 1 = true ∧
    (insideQueue.chip 1).qlock = some (.consumer 0) := by
  refine ⟨fun c hc => ?_, by decide, by decide⟩
  obtain rfl := present_one_A c hc
  have hw : (insideQueue.chip 1).wlock = none := by decide
  have hq : (insideQueue.chip 1).qlock = some (.consumer 0) := by decide
  have hm : insideQueue.irqMode 1 = true := by decide
  have hi : (insideQueue.chip 1).iss.upc = 0 := by decide
  refine ⟨fun k => ?_, ?_, fun k => ?_, ?_⟩
  · by_cases h : k = 0
    · subst h; simp [hw, hm, commandStands, flight_insideQueue, commandOf_getInt, holdsWindow]
    · simp [hw, commandStands, flight_insideQueue, h]
  · simp [hw, hi, issHoldsWindow]
  · by_cases h : k = 0
    · subst h; simp [hq, hm, commandStands, flight_insideQueue, commandOf_getInt, Instr.chipField, holdsQueue]
    · simp [hq, commandStands, flight_insideQueue, h, Ne.symm h]
  · simp [hq, hi, issHoldsQueue]

/-- The sequencer holding the window, and holding the queue, under the lock discipline. -/
theorem witness_LockHoldsAreBounded_iss : LocksHeld issInWindow ∧ issInWindow.present 1 = true ∧
    (issInWindow.chip 1).wlock = some .iss ∧ LocksHeld issInQueue ∧ issInQueue.present 1 = true ∧
    (issInQueue.chip 1).qlock = some .iss := by
  refine ⟨fun c hc => ?_, by decide, by decide, fun c hc => ?_, by decide, by decide⟩
  · obtain rfl := present_one_A c hc
    have hf : ∀ k, issInWindow.flight k = none := fun _ => rfl
    refine ⟨fun k => ?_, by decide, fun k => ?_, by decide⟩
    · simp [show (issInWindow.chip 1).wlock = some .iss by decide, commandStands, hf]
    · simp [show (issInWindow.chip 1).qlock = none by decide, commandStands, hf]
  · obtain rfl := present_one_A c hc
    have hf : ∀ k, issInQueue.flight k = none := fun _ => rfl
    refine ⟨fun k => ?_, by decide, fun k => ?_, by decide⟩
    · simp [show (issInQueue.chip 1).wlock = none by decide, commandStands, hf]
    · simp [show (issInQueue.chip 1).qlock = some .iss by decide, commandStands, hf]

/-- The lock discipline and a step from it. -/
theorem witness_StepKeepsLockDiscipline :
    LocksHeld insideWindow ∧ legalBoard insideWindow.cfg = true ∧
    LocksHeld (planned (.consumer 0) insideWindow) ∧
    ∃ t, step (planned (.consumer 0) insideWindow) = .next t := by
  obtain ⟨h, -, -⟩ := witness_LockHoldsAreBounded_window
  exact ⟨h, by decide, fun c hc => ⟨(h c hc).windowConsumer, (h c hc).windowIss,
    (h c hc).queueConsumer, (h c hc).queueIss⟩, _, rfl⟩

theorem flight_wokenA (k : Nat) :
    wokenA.flight k = if k = 0 then some ⟨0xB10000, 4, {}⟩ else none := by
  by_cases h : k = 0
  · subst h; rfl
  · rw [if_neg h]; exact if_neg (fun hc => h hc.symm)

/-- A waiting consumer, and a step from there. -/
theorem witness_StepKeepsWaiters : WaitersExact (planned (.consumer 0) wokenA) ∧
    ∃ t, step (planned (.consumer 0) wokenA) = .next t := by
  refine ⟨fun c hc k => ?_, _, rfl⟩
  obtain rfl := present_one_A c hc
  have hw : ((planned (.consumer 0) wokenA).chip 1).waiters = [0] := by decide
  have hf : (planned (.consumer 0) wokenA).flight k = wokenA.flight k := rfl
  have hm : (planned (.consumer 0) wokenA).irqMode 1 = true := by decide
  rw [hw, hf, hm, flight_wokenA]
  by_cases h : k = 0 <;> simp [h, commandOf_waitInt, standsWaiting]

/-- A valid command in flight, and a step from there. -/
theorem witness_StepKeepsForms : EveryChip BufferCanonical (planned (.consumer 0) wokenA) ∧
    EveryChip WaitersCanonical (planned (.consumer 0) wokenA) ∧
    FlightValid (planned (.consumer 0) wokenA) ∧
    ∃ t, step (planned (.consumer 0) wokenA) = .next t := by
  refine ⟨by unfold EveryChip; decide, by unfold EveryChip; decide, ⟨by decide, fun k r h => ?_⟩, _, rfl⟩
  have hf : (planned (.consumer 0) wokenA).flight k = wokenA.flight k := rfl
  rw [hf, flight_wokenA] at h
  by_cases hk : k = 0
  · rw [if_pos hk] at h
    obtain rfl := Option.some.inj h
    decide
  · rw [if_neg hk] at h
    cases h

/-- The quiescent reset state, under the lock discipline and the exact waiter sets. -/
theorem witness_QuiescentBlockIsFree : LocksHeld stA ∧ WaitersExact stA ∧
    EveryChip WaitersCanonical stA ∧ quiescent stA = true ∧ stA.present 1 = true := by
  have hf : ∀ k, stA.flight k = none := fun _ => rfl
  refine ⟨fun c hc => ?_, fun c hc k => ?_, by unfold EveryChip; decide, by decide, by decide⟩
  · obtain rfl := present_one_A c hc
    have hw : (stA.chip 1).wlock = none := by decide
    have hq : (stA.chip 1).qlock = none := by decide
    exact ⟨fun k => by simp [hw, commandStands, hf], by decide,
      fun k => by simp [hq, commandStands, hf], by decide⟩
  · obtain rfl := present_one_A c hc
    simp [show (stA.chip 1).waiters = [] by decide, hf]

/-! ### Frames: each kind of command has a next state -/

theorem witness_CommandsStayOnTheirChip : ∃ t, exec (.waitInt 1) stA = .next t := ⟨_, rfl⟩

theorem witness_ReadCommandsFrame :
    (∃ t, exec (.readPort 1 7) stA = .next t) ∧ ∃ t, exec (.readBit 1 48) stA = .next t :=
  ⟨⟨_, rfl⟩, _, rfl⟩

theorem witness_DataPortWritesFrame :
    (∃ t, exec (.writePort 1 5 0xFF) stA = .next t) ∧ ∃ t, exec (.setBit 1 48) stA = .next t :=
  ⟨⟨_, rfl⟩, _, rfl⟩

theorem witness_InterruptCommandsFrame :
    (∃ t, exec (.enableInt 1 24 1) stA = .next t) ∧ ∃ t, exec (.clearIntId 1 2) stA = .next t :=
  ⟨⟨_, rfl⟩, _, rfl⟩

theorem witness_EventCommandsFrame :
    (∃ t, exec (.getInt 1) oneEvent = .next t) ∧ ∃ t, exec (.waitInt 1) stA = .next t :=
  ⟨⟨_, rfl⟩, _, rfl⟩

theorem witness_LockCommandsFrame :
    (∃ t, exec (.lockPort 1 5) stA = .next t) ∧ ∃ t, exec (.unlockPort 1 5) stA = .next t :=
  ⟨⟨_, rfl⟩, _, rfl⟩

end Sys2Proof.Tests
end

section
/-! ## Encoding: a well-formed command is what its word decodes to (R92, R100) -/

namespace Sys2Proof.Proofs

open Sys2Proof.Machine Sys2Proof.Laws

theorem opcodeOf_encode (i : Instr) (h : WellFormed i) : opcodeOf (encode i) = opcode i :=
  (OpcodeField.of_opcode i h).1

theorem reservedZero_encode (i : Instr) (h : WellFormed i) : reservedZero (encode i) = true :=
  (OpcodeField.of_opcode i h).2

/-- The operand fields of a well-formed command's word. -/
theorem operands_encode (i : Instr) (h : WellFormed i) :
    chipOf (encode i) = i.chipField ∧ indexOf (encode i) = i.indexField ∧
      dataOf (encode i) = i.dataField := by
  obtain ⟨-, hc, hx, hv, -, -⟩ :=
    packed_fields (opcode i) i.chipField i.indexField i.dataField.toNat (OpcodeField.opcode_lt i)
      h.1 h.2 i.dataField.isLt
  unfold encode
  exact ⟨(chipOf_ofNat _).trans hc, (indexOf_ofNat _).trans hx,
    BitVec.eq_of_toNat_eq ((dataOf_ofNat _).trans hv)⟩

theorem decode_encode (i : Instr) (h : WellFormed i) : decode (encode i) = .ok i := by
  have hop := opcodeOf_encode i h
  have hrsv := reservedZero_encode i h
  obtain ⟨hc, hx, hv⟩ := operands_encode i h
  unfold decode
  cases i <;>
    simp [hop, opcode, formatIndexData, formatIndex, formatChip, hrsv, hc, hx, hv,
      Instr.chipField, Instr.indexField, Instr.dataField]

/-- The record an issue creates, and any later one with its word, is of the command issued. -/
theorem commandOf_encode (i : Instr) (s : State) (u : BitVec 6) (tmp : Temps)
    (h : issueFault i s = none) : commandOf ⟨encode i, u, tmp⟩ = some i := by
  obtain ⟨hp, hi⟩ := (issueFault_none i s).mp h
  exact commandOf_of_decode (decode_encode i (accepted_wellFormed i s hp hi))

end Sys2Proof.Proofs
end

section
/-! ## What every step of every micro-program meets

`Meets U C m`: where the step `m` is taken, the next step number satisfies `U` and the chip it leaves
satisfies `C`.  One rule for each shared operation, then one lemma for each micro-program. -/

namespace Sys2Proof.Proofs

open Sys2Proof.Machine Sys2Proof.Laws Sys2Proof.Safety

/-- Where the step is taken, its next step number satisfies `U` and its chip satisfies `C`. -/
def Meets (U : Nat → Prop) (C : Chip → Prop) : Micro → Prop
  | .wait => True
  | .goto u _ ch => U u ∧ C ch
  | .respond _ _ ch => C ch

/-- A property of a chip that every single operation of an agent on it keeps.  Steps write the
window's data ports through the image only, so `ioWrite` is asked for above offset 5 alone. -/
structure ChipInvariant (C : Chip → Prop) : Prop where
  wlock : ∀ ch h, C ch → C { ch with wlock := h }
  qlock : ∀ ch h, C ch → C { ch with qlock := h }
  afterRead : ∀ off ch, C ch → C (afterRead off ch)
  ioWrite : ∀ off v ch, 5 < off → C ch → C (ioWrite off v ch)
  writeThrough : ∀ off v ch, C ch → C (writeThrough off v ch)
  popChip : ∀ ch, C ch → C (popChip ch)
  push : ∀ e ch, C ch → C (push e ch)
  wake : ∀ ch, C ch → C (wake ch)
  joinWaiters : ∀ k ch, C ch → C (joinWaiters k ch)
  leaveWaiters : ∀ k ch, C ch → C (leaveWaiters k ch)
  iss : ∀ ch x, C ch → C { ch with iss := x }
  extWrite : ∀ p v ch, C ch → C (extWrite p v ch)
  reset : ∀ ext n, C (Chip.resetWith ext n)

/-- `last` steps, numbered from 1. -/
abbrev StepOf (last u : Nat) : Prop := 1 ≤ u ∧ u ≤ last

section
variable {U : Nat → Prop} {C : Chip → Prop}

@[simp] theorem meets_wait : Meets U C .wait := trivial

@[simp] theorem meets_goto (u : Nat) (tmp : Temps) (ch : Chip) :
    Meets U C (.goto u tmp ch) ↔ U u ∧ C ch := Iff.rfl

@[simp] theorem meets_respond (st : Status) (v : Byte) (ch : Chip) :
    Meets U C (.respond st v ch) ↔ C ch := Iff.rfl

/-! ### The shared operations -/

variable (hC : ChipInvariant C)
include hC

theorem meets_acquireW (me : Holder) {n : Nat} (tmp : Temps) {ch : Chip} (hn : U n) (h : C ch) :
    Meets U C (acquireW me n tmp ch) := by
  rcases acquireW_cases me n tmp ch with ⟨-, ha⟩ | ⟨-, ha⟩ <;> rw [ha]
  · exact ⟨hn, hC.wlock ch _ h⟩
  · exact meets_wait

theorem meets_acquireQ (me : Holder) {n : Nat} (tmp : Temps) {ch : Chip} (hn : U n) (h : C ch) :
    Meets U C (acquireQ me n tmp ch) := by
  rcases acquireQ_cases me n tmp ch with ⟨-, ha⟩ | ⟨-, ha⟩ <;> rw [ha]
  · exact ⟨hn, hC.qlock ch _ h⟩
  · exact meets_wait

theorem meets_releaseW (me : Holder) {ch : Chip} {k : Chip → Micro}
    (hk : ∀ ch', C ch' → Meets U C (k ch')) (h : C ch) : Meets U C (releaseW me ch k) := by
  rcases releaseW_cases me ch k with ⟨-, hr⟩ | ⟨-, hr⟩ <;> rw [hr]
  · exact hk _ (hC.wlock ch _ h)
  · exact meets_wait

theorem meets_releaseQ (me : Holder) {ch : Chip} {k : Chip → Micro}
    (hk : ∀ ch', C ch' → Meets U C (k ch')) (h : C ch) : Meets U C (releaseQ me ch k) := by
  rcases releaseQ_cases me ch k with ⟨-, hr⟩ | ⟨-, hr⟩ <;> rw [hr]
  · exact hk _ (hC.qlock ch _ h)
  · exact meets_wait

theorem meets_readTo (c off : Nat) {n : Nat} (tmp : Temps) {ch : Chip} (hn : U n) (h : C ch) :
    Meets U C (readTo c off n tmp ch) := ⟨hn, hC.afterRead off ch h⟩

theorem meets_writeFrom {off : Nat} (v : Byte) {n : Nat} (tmp : Temps) {ch : Chip} (hoff : 5 < off)
    (hn : U n) (h : C ch) : Meets U C (writeFrom off v n tmp ch) := ⟨hn, hC.ioWrite off v ch hoff h⟩

theorem meets_selectRead (c : Nat) {n : Nat} (tmp : Temps) {ch : Chip} (hn : U n) (h : C ch) :
    Meets U C (selectRead c n tmp ch) := meets_readTo hC c 7 tmp hn h

theorem meets_selectWrite (pg : BitVec 2) {n : Nat} (tmp : Temps) {ch : Chip} (hn : U n) (h : C ch) :
    Meets U C (selectWrite pg n tmp ch) := meets_writeFrom hC _ tmp (by decide) hn h

theorem meets_scanPort (c i : Nat) {found next : Nat} (missed : EventNo) (tmp : Temps) {ch : Chip}
    (hf : U found) (hn : U next) (h : C ch) : Meets U C (scanPort c i found next missed tmp ch) := by
  unfold scanPort
  split
  · exact ⟨hn, hC.afterRead _ ch h⟩
  · exact ⟨hf, hC.afterRead _ ch h⟩

theorem meets_clearPulse (c b base pos : Nat) (tmp : Temps) {ch : Chip}
    (hU : ∀ d, d ≤ 7 → U (base + d)) (h : C ch) : Meets U C (clearPulse c b base pos tmp ch) := by
  unfold clearPulse
  split
  · exact meets_selectRead hC c tmp (hU 1 (by decide)) h
  · exact meets_selectWrite hC 2 tmp (hU 2 (by decide)) h
  · exact meets_readTo hC c _ tmp (hU 3 (by decide)) h
  · exact meets_writeFrom hC _ tmp (by omega) (hU 4 (by decide)) h
  · exact meets_writeFrom hC _ tmp (by omega) (hU 5 (by decide)) h
  · exact meets_selectRead hC c tmp (hU 6 (by decide)) h
  · exact meets_selectWrite hC Config.idlePage tmp (hU 7 (by decide)) h
  · exact meets_wait

theorem meets_poll (c base none pos : Nat) (tmp : Temps) {ch : Chip} (hnone : U none)
    (hU : ∀ d, d ≤ 8 → U (base + d)) (h : C ch) : Meets U C (poll c base none pos tmp ch) := by
  unfold poll
  split
  · split
    · exact ⟨hnone, hC.afterRead 6 ch h⟩
    · exact ⟨hU 1 (by decide), hC.afterRead 6 ch h⟩
  · exact meets_selectRead hC c tmp (hU 2 (by decide)) h
  · exact meets_selectWrite hC 3 tmp (hU 3 (by decide)) h
  · exact meets_scanPort hC c 0 tmp.r tmp (hU 6 (by decide)) (hU 4 (by decide)) h
  · exact meets_scanPort hC c 1 tmp.r tmp (hU 6 (by decide)) (hU 5 (by decide)) h
  · exact meets_scanPort hC c 2 0 tmp (hU 6 (by decide)) (hU 6 (by decide)) h
  · exact meets_selectRead hC c tmp (hU 7 (by decide)) h
  · refine meets_selectWrite hC Config.idlePage tmp ?_ h
    split
    · exact hnone
    · exact hU 8 (by decide)
  · exact meets_wait

/-- SERVICE stays at its own fifteen positions and the one after them (R185). -/
theorem meets_service (c base pos : Nat) (tmp : Temps) {ch : Chip}
    (hU : ∀ d, d ≤ 15 → U (base + d)) (h : C ch) : Meets U C (service c base pos tmp ch) := by
  unfold service
  split
  · exact meets_poll hC c base (base + 15) pos tmp (hU 15 le_rfl) (fun d hd => hU d (by omega)) h
  · refine meets_clearPulse hC c tmp.r.toNat (base + 8) (pos - 8) tmp (fun d hd => ?_) h
    rw [Nat.add_assoc]
    exact hU (8 + d) (by omega)

end

section
variable {C : Chip → Prop} (hC : ChipInvariant C)
include hC

/-! ### The micro-programs -/

theorem meets_progReadPort (c off upc : Nat) (tmp : Temps) {ch : Chip} (h : C ch) :
    Meets (StepOf 1) C (progReadPort c off upc tmp ch) := by
  unfold progReadPort
  split
  · exact hC.afterRead off ch h
  · exact meets_wait

theorem meets_progReadBit (c b upc : Nat) (tmp : Temps) {ch : Chip} (h : C ch) :
    Meets (StepOf 1) C (progReadBit c b upc tmp ch) := by
  unfold progReadBit
  split
  · exact hC.afterRead (portOf b) ch h
  · exact meets_wait

theorem meets_progWritePort (me : Holder) (off : Nat) (v : Byte) (upc : Nat) (tmp : Temps)
    {ch : Chip} (h : C ch) : Meets (StepOf 3) C (progWritePort me off v upc tmp ch) := by
  unfold progWritePort
  split
  · exact meets_acquireW hC me tmp (by decide) h
  · exact ⟨by decide, hC.writeThrough off v ch h⟩
  · exact meets_releaseW hC me (fun _ h' => h') h
  · exact meets_wait

theorem meets_progWriteBit (me : Holder) (b : Nat) (val : Bool) (upc : Nat) (tmp : Temps)
    {ch : Chip} (h : C ch) : Meets (StepOf 3) C (progWriteBit me b val upc tmp ch) := by
  unfold progWriteBit
  split
  · exact meets_acquireW hC me tmp (by decide) h
  · exact ⟨by decide, hC.writeThrough _ _ ch h⟩
  · exact meets_releaseW hC me (fun _ h' => h') h
  · exact meets_wait

theorem meets_progLockPort (me : Holder) (c p upc : Nat) (tmp : Temps) {ch : Chip} (h : C ch) :
    Meets (StepOf 4) C (progLockPort me c p upc tmp ch) := by
  unfold progLockPort
  split
  · exact meets_acquireW hC me tmp (by decide) h
  · exact meets_readTo hC c 7 tmp (by decide) h
  · exact meets_writeFrom hC _ tmp (by decide) (by decide) h
  · exact meets_releaseW hC me (fun _ h' => h') h
  · exact meets_wait

theorem meets_progUnlockPort (me : Holder) (c p upc : Nat) (tmp : Temps) {ch : Chip} (h : C ch) :
    Meets (StepOf 4) C (progUnlockPort me c p upc tmp ch) := by
  unfold progUnlockPort
  split
  · exact meets_acquireW hC me tmp (by decide) h
  · exact meets_readTo hC c 7 tmp (by decide) h
  · exact meets_writeFrom hC _ tmp (by decide) (by decide) h
  · exact meets_releaseW hC me (fun _ h' => h') h
  · exact meets_wait

theorem meets_progEnableInt (me : Holder) (c b : Nat) (rising : Bool) (upc : Nat) (tmp : Temps)
    {ch : Chip} (h : C ch) : Meets (StepOf 12) C (progEnableInt me c b rising upc tmp ch) := by
  unfold progEnableInt
  split
  · exact meets_acquireW hC me tmp (by decide) h
  · exact meets_selectRead hC c tmp (by decide) h
  · exact meets_selectWrite hC _ tmp (by decide) h
  · exact meets_readTo hC c _ tmp (by decide) h
  · exact meets_writeFrom hC _ tmp (by omega) (by decide) h
  · exact meets_selectRead hC c tmp (by decide) h
  · exact meets_selectWrite hC _ tmp (by decide) h
  · exact meets_readTo hC c _ tmp (by decide) h
  · exact meets_writeFrom hC _ tmp (by omega) (by decide) h
  · exact meets_selectRead hC c tmp (by decide) h
  · exact meets_selectWrite hC _ tmp (by decide) h
  · exact meets_releaseW hC me (fun _ h' => h') h
  · exact meets_wait

theorem meets_progDisableInt (me : Holder) (c b upc : Nat) (tmp : Temps) {ch : Chip} (h : C ch) :
    Meets (StepOf 8) C (progDisableInt me c b upc tmp ch) := by
  unfold progDisableInt
  split
  · exact meets_acquireW hC me tmp (by decide) h
  · exact meets_selectRead hC c tmp (by decide) h
  · exact meets_selectWrite hC _ tmp (by decide) h
  · exact meets_readTo hC c _ tmp (by decide) h
  · exact meets_writeFrom hC _ tmp (by omega) (by decide) h
  · exact meets_selectRead hC c tmp (by decide) h
  · exact meets_selectWrite hC _ tmp (by decide) h
  · exact meets_releaseW hC me (fun _ h' => h') h
  · exact meets_wait

theorem meets_progClearIntId (me : Holder) (c p upc : Nat) (tmp : Temps) {ch : Chip} (h : C ch) :
    Meets (StepOf 7) C (progClearIntId me c p upc tmp ch) := by
  unfold progClearIntId
  split
  · exact meets_acquireW hC me tmp (by decide) h
  · exact meets_selectRead hC c tmp (by decide) h
  · exact meets_selectWrite hC _ tmp (by decide) h
  · exact meets_writeFrom hC _ tmp (by omega) (by decide) h
  · exact meets_selectRead hC c tmp (by decide) h
  · exact meets_selectWrite hC _ tmp (by decide) h
  · exact meets_releaseW hC me (fun _ h' => h') h
  · exact meets_wait

theorem meets_progClearInt (me : Holder) (c b upc : Nat) (tmp : Temps) {ch : Chip} (h : C ch) :
    Meets (StepOf 9) C (progClearInt me c b upc tmp ch) := by
  unfold progClearInt
  split
  · exact meets_acquireW hC me tmp (by decide) h
  · exact meets_releaseW hC me (fun _ h' => h') h
  · exact meets_clearPulse hC c b 2 _ tmp (fun d hd => ⟨by omega, by omega⟩) h

theorem meets_progGetBuffered (me : Holder) (c upc : Nat) (tmp : Temps) {ch : Chip} (h : C ch) :
    Meets (StepOf 3) C (progGetBuffered me c upc tmp ch) := by
  unfold progGetBuffered
  split
  · exact meets_acquireQ hC me tmp (by decide) h
  · exact ⟨by decide, hC.popChip ch h⟩
  · exact meets_releaseQ hC me (fun _ h' => h') h
  · exact meets_wait

theorem meets_progGetPolled (me : Holder) (c upc : Nat) (tmp : Temps) {ch : Chip} (h : C ch) :
    Meets (StepOf 17) C (progGetPolled me c upc tmp ch) := by
  unfold progGetPolled
  split
  · exact meets_acquireW hC me tmp (by decide) h
  · exact meets_releaseW hC me (fun _ h' => h') h
  · exact meets_service hC c 2 _ tmp (fun d hd => ⟨by omega, by omega⟩) h

theorem meets_progWaitBuffered (k c upc : Nat) (tmp : Temps) {ch : Chip} (h : C ch) :
    Meets (StepOf 6) C (progWaitBuffered k c upc tmp ch) := by
  unfold progWaitBuffered
  split
  · exact meets_acquireQ hC _ tmp (by decide) h
  · refine ⟨by decide, ?_⟩
    split
    · exact hC.joinWaiters k _ (hC.popChip ch h)
    · exact hC.popChip ch h
  · refine meets_releaseQ hC _ (fun ch' h' => ?_) h
    split
    · exact ⟨by decide, h'⟩
    · exact h'
  · split
    · exact meets_acquireQ hC _ tmp (by decide) h
    · exact meets_wait
  · exact ⟨by decide, hC.popChip _ (hC.leaveWaiters k ch h)⟩
  · exact meets_releaseQ hC _ (fun _ h' => h') h
  · exact meets_wait

theorem meets_progWaitPolled (k c upc : Nat) (tmp : Temps) {ch : Chip} (h : C ch) :
    Meets (StepOf 40) C (progWaitPolled k c upc tmp ch) := by
  unfold progWaitPolled
  split
  · exact meets_acquireW hC _ tmp (by decide) h
  · refine meets_releaseW hC _ (fun ch' h' => ?_) h
    split
    · exact ⟨by decide, h'⟩
    · exact h'
  · exact meets_acquireQ hC _ tmp (by decide) h
  · exact ⟨by decide, hC.joinWaiters k ch h⟩
  · exact meets_releaseQ hC _ (fun _ h' => ⟨by decide, h'⟩) h
  · split
    · exact meets_acquireQ hC _ tmp (by decide) h
    · exact meets_wait
  · exact ⟨by decide, hC.leaveWaiters k ch h⟩
  · exact meets_releaseQ hC _ (fun _ h' => ⟨by decide, h'⟩) h
  · exact meets_acquireW hC _ tmp (by decide) h
  · exact meets_releaseW hC _ (fun _ h' => h') h
  · split
    · exact meets_service hC c 2 _ tmp (fun d hd => ⟨by omega, by omega⟩) h
    · exact meets_service hC c 25 _ tmp (fun d hd => ⟨by omega, by omega⟩) h

theorem meets_progIss (c upc : Nat) (tmp : Temps) {ch : Chip} (h : C ch) :
    Meets (fun u => u ≤ 20) C (progIss c upc tmp ch) := by
  unfold progIss
  split
  · split
    · exact meets_acquireW hC _ tmp (by decide) h
    · exact meets_wait
  · split
    · exact meets_acquireW hC _ tmp (by decide) h
    · exact meets_wait
  · refine meets_releaseW hC _ (fun ch' h' => ?_) h
    split
    · exact ⟨by decide, h'⟩
    · exact ⟨by decide, h'⟩
  · exact meets_acquireQ hC _ tmp (by decide) h
  · exact ⟨by decide, hC.wake _ (hC.push tmp.r ch h)⟩
  · exact meets_releaseQ hC _ (fun _ h' => ⟨by decide, h'⟩) h
  · exact meets_service hC c 2 _ tmp (fun d hd => by omega) h

/-- Every step of every command leads to a step of the same command, and keeps every chip
invariant. -/
theorem meets_programOf (k : Nat) (m : Bool) (i : Instr) (upc : Nat) (tmp : Temps) {ch : Chip}
    (h : C ch) : Meets (StepOf (lastStep m i)) C (programOf k m i upc tmp ch) := by
  cases i with
  | readPort c x => exact meets_progReadPort hC c x upc tmp h
  | writePort c x v => exact meets_progWritePort hC _ x v upc tmp h
  | readBit c x => exact meets_progReadBit hC c x upc tmp h
  | writeBit c x v => exact meets_progWriteBit hC _ x _ upc tmp h
  | setBit c x => exact meets_progWriteBit hC _ x _ upc tmp h
  | clrBit c x => exact meets_progWriteBit hC _ x _ upc tmp h
  | enableInt c x v => exact meets_progEnableInt hC _ c x _ upc tmp h
  | disableInt c x => exact meets_progDisableInt hC _ c x upc tmp h
  | clearInt c x => exact meets_progClearInt hC _ c x upc tmp h
  | getInt c =>
    cases m with
    | false => exact meets_progGetPolled hC _ c upc tmp h
    | true => exact meets_progGetBuffered hC _ c upc tmp h
  | waitInt c =>
    cases m with
    | false => exact meets_progWaitPolled hC k c upc tmp h
    | true => exact meets_progWaitBuffered hC k c upc tmp h
  | clearIntId c x => exact meets_progClearIntId hC _ c x upc tmp h
  | lockPort c x => exact meets_progLockPort hC _ c x upc tmp h
  | unlockPort c x => exact meets_progUnlockPort hC _ c x upc tmp h

end

/-! ### Step numbers -/

theorem lastStep_le (m : Bool) (i : Instr) : lastStep m i ≤ longestProgram := by
  cases i <;> cases m <;> simp [lastStep, longestProgram]

theorem one_le_lastStep (m : Bool) (i : Instr) : 1 ≤ lastStep m i := by
  cases i <;> cases m <;> simp [lastStep]

/-- The property that says nothing is kept by every operation. -/
theorem chipInvariant_true : ChipInvariant fun _ => True := by
  constructor <;> intros <;> trivial

/-- A step of a command that is taken and does not answer leads to a step of the same command (R50). -/
theorem programOf_goto_stepOf {k : Nat} {m : Bool} {i : Instr} {upc u : Nat} {tmp tmp' : Temps}
    {ch ch' : Chip} (h : programOf k m i upc tmp ch = .goto u tmp' ch') :
    StepOf (lastStep m i) u := by
  have hm := meets_programOf chipInvariant_true k m i upc tmp (ch := ch) trivial
  rw [h] at hm
  exact hm.1

/-- The 6 bits of a record hold every step number of a command (R50). -/
theorem upc_toNat_of_stepOf {m : Bool} {i : Instr} {u : Nat} (h : StepOf (lastStep m i) u) :
    (BitVec.ofNat 6 u).toNat = u := upc_toNat (h.2.trans (lastStep_le m i))

end Sys2Proof.Proofs
end

section
/-! ## A command run alone is its atomic steps (R11, R50, R83) -/

namespace Sys2Proof.Proofs

open Sys2Proof.Machine Sys2Proof.Laws Sys2Proof.Safety

/-- An agent whose step changes nothing stands still. -/
theorem consumerRun_of_step_eq {k : Nat} {s : State} (h : consumerStep k s = s) (n : Nat) :
    consumerRun k n s = s := by
  induction n with
  | zero => rfl
  | succ n ih => rw [consumerRun, h, ih]

/-- A consumer with nothing in flight has no step. -/
theorem consumerStep_of_flight_none {k : Nat} {s : State} (h : s.flight k = none) :
    consumerStep k s = s := by
  simp [consumerStep, h]

/-- One step of a command in flight on a present chip, which its micro-program does not enable. -/
theorem consumerStep_of_wait {k : Nat} {s : State} {r : InFlight} {i : Instr}
    (hr : s.flight k = some r) (hi : commandOf r = some i) (hp : s.present i.chipField = true)
    (hm : programOf k (s.irqMode i.chipField) i r.upc.toNat r.tmp (s.chip i.chipField) = .wait) :
    consumerStep k s = s := by
  simp [consumerStep, hr, hi, commandMicro, hp, hm]

theorem consumerStep_of_goto {k u : Nat} {s : State} {r : InFlight} {i : Instr} {tmp : Temps}
    {ch : Chip} (hr : s.flight k = some r) (hi : commandOf r = some i)
    (hp : s.present i.chipField = true)
    (hm : programOf k (s.irqMode i.chipField) i r.upc.toNat r.tmp (s.chip i.chipField) =
      .goto u tmp ch) :
    consumerStep k s = settle k r.word i.chipField (.waiting u tmp ch) s := by
  simp [consumerStep, hr, hi, commandMicro, hp, hm]

theorem consumerStep_of_respond {k : Nat} {s : State} {r : InFlight} {i : Instr} {st : Status}
    {v : Byte} {ch : Chip} (hr : s.flight k = some r) (hi : commandOf r = some i)
    (hp : s.present i.chipField = true)
    (hm : programOf k (s.irqMode i.chipField) i r.upc.toNat r.tmp (s.chip i.chipField) =
      .respond st v ch) :
    consumerStep k s = settle k r.word i.chipField (.answered st v ch) s := by
  simp [consumerStep, hr, hi, commandMicro, hp, hm]

/-- Settling twice, first before a wait, is settling once. -/
theorem settle_settle_waiting (k : Nat) (w : CmdWord) (c u : Nat) (tmp : Temps) (ch : Chip)
    (p : Progress) (s : State) :
    settle k w c p (settle k w c (.waiting u tmp ch) s) = settle k w c p s := by
  cases p <;> simp [settle, setChip_setFlight]

theorem settle_waiting_flight (k : Nat) (w : CmdWord) (c u : Nat) (tmp : Temps) (ch : Chip)
    (s : State) :
    (settle k w c (.waiting u tmp ch) s).flight k = some ⟨w, BitVec.ofNat 6 u, tmp⟩ :=
  setFlight_flight_same _ _ _

theorem settle_waiting_chip (k : Nat) (w : CmdWord) {c : Nat} (u : Nat) (tmp : Temps) (ch : Chip)
    {s : State} (hp : s.present c = true) : (settle k w c (.waiting u tmp ch) s).chip c = ch :=
  chip_setChip_present s c ch hp

/-- Where the record of `i` waits before step `u`, the next step of its micro-program is step `u`. -/
theorem programOf_settle_waiting {k u : Nat} {i : Instr} {s : State} (w : CmdWord) (tmp : Temps)
    (ch : Chip) (hp : s.present i.chipField = true)
    (hu : StepOf (lastStep (s.irqMode i.chipField) i) u) :
    programOf k ((settle k w i.chipField (.waiting u tmp ch) s).irqMode i.chipField) i
        (BitVec.ofNat 6 u).toNat tmp
        ((settle k w i.chipField (.waiting u tmp ch) s).chip i.chipField) =
      programOf k (s.irqMode i.chipField) i u tmp ch := by
  rw [settle_waiting_chip k w u tmp ch hp, upc_toNat_of_stepOf hu]
  rfl

/-- From a state in which consumer `k` waits before step `u`, `n` of its own steps lead where its
micro-program, run alone for `n` steps, gets. -/
theorem consumerRun_settle {k : Nat} {i : Instr} {s : State} (hi : issueFault i s = none) (n : Nat)
    {u : Nat} (tmp : Temps) (ch : Chip) (hu : StepOf (lastStep (s.irqMode i.chipField) i) u) :
    consumerRun k n (settle k (encode i) i.chipField (.waiting u tmp ch) s) =
      settle k (encode i) i.chipField
        (runProgram (programOf k (s.irqMode i.chipField) i) n u tmp ch) s := by
  have hp : s.present i.chipField = true := ((issueFault_none i s).mp hi).1
  induction n generalizing u tmp ch with
  | zero => rfl
  | succ n ih =>
    have hr := settle_waiting_flight k (encode i) i.chipField u tmp ch s
    have hw := commandOf_encode i s (BitVec.ofNat 6 u) tmp hi
    have hm := programOf_settle_waiting (k := k) (encode i) tmp ch hp hu
    cases hg : programOf k (s.irqMode i.chipField) i u tmp ch with
    | wait =>
      rw [runProgram_wait _ _ _ _ _ hg]
      exact consumerRun_of_step_eq (consumerStep_of_wait hr hw hp (hm.trans hg)) _
    | goto u' tmp' ch' =>
      rw [runProgram_goto _ _ _ _ _ _ _ _ hg, consumerRun,
        consumerStep_of_goto hr hw hp (hm.trans hg), settle_settle_waiting,
        ih tmp' ch' (programOf_goto_stepOf hg)]
    | respond st v ch' =>
      rw [runProgram_respond _ _ _ _ _ _ _ _ hg, consumerRun,
        consumerStep_of_respond hr hw hp (hm.trans hg), settle_settle_waiting]
      exact consumerRun_of_step_eq (consumerStep_of_flight_none (by simp [settle])) n

/-- An accepted command's issue step. -/
theorem issueOnly_accepted {k : Nat} {i : Instr} {s : State} (hb : s.busy k = false)
    (hi : issueFault i s = none) :
    issueOnly k i s = .next (s.setFlight k { word := encode i, upc := 1, tmp := {} }) := by
  simp [issueOnly, issueThen, hb, hi]

/-- An accepted command's coarse move, as its issue step and its consumer's own steps. -/
theorem exec_eq_consumerRun {i : Instr} {s : State} (hb : s.busy s.cur = false)
    (hi : issueFault i s = none) :
    exec i s = .next (consumerRun s.cur longestProgram
      (s.setFlight s.cur { word := encode i, upc := 1, tmp := {} })) := by
  obtain ⟨hp, hx⟩ := (issueFault_none i s).mp hi
  have hrun := consumerRun_settle (k := s.cur) hi longestProgram {} (s.chip i.chipField)
    ⟨le_rfl, one_le_lastStep _ _⟩
  rw [exec_eq_command, command_accepted _ _ _ hb hp hx, ← hrun]
  simp [settle]

/-- Settles O11: after `n` of its own steps the consumer stands where its micro-program, run alone for
`n` steps, gets (`consumerRun_settle`). -/
theorem commandIsItsSteps : Obligations.CommandIsItsSteps := by
  intro s i hb hp hx
  have hi : issueFault i s = none := (issueFault_none i s).mpr ⟨hp, hx⟩
  exact ⟨_, issueOnly_accepted hb hi, exec_eq_consumerRun hb hi⟩

end Sys2Proof.Proofs
end

section
/-! ## What a step does

Every move is a chain of atomic steps, so a property that each kind of atomic step keeps is kept by
every step of the machine. -/

namespace Sys2Proof.Proofs

open Sys2Proof.Machine Sys2Proof.Laws Sys2Proof.Safety

/-- A property that each kind of atomic step keeps (R11, R267), and that speaks of no counter, plan or
command port. -/
structure AtomicInvariant (P : State → Prop) : Prop where
  free : ∀ s a u k, P s → P { s with agenda := a, clock := u, cur := k }
  answer : ∀ s k st, P s → P (s.deliver k st 0)
  issue : ∀ s k i, P s → s.busy k = false → issueFault i s = none →
    P (s.setFlight k { word := encode i, upc := 1, tmp := {} })
  consumer : ∀ s k, P s → P (consumerStep k s)
  iss : ∀ s c, P s → P (issStep c s)
  envSet : ∀ s c p v, P s → s.present c = true → p ≤ 5 → P (s.setChip c (extWrite p v (s.chip c)))
  envWake : ∀ s c, P s → s.present c = true → P (s.setChip c (wake (s.chip c)))
  reset : ∀ s, P s → quiescent s = true →
    P { s with chips := #v[resetChip 1 s, resetChip 2 s, resetChip 3 s, resetChip 4 s] }

/-- Everything `rejectWord` can do (R251). -/
theorem rejectWord_cases (k : Nat) (s : State) :
    rejectWord k s = .refused .consumerBusy ∨ rejectWord k s = .next (s.deliver k .illegal 0) := by
  unfold rejectWord
  split
  · exact .inl rfl
  · exact .inr rfl

/-- Everything reset can do (R290). -/
theorem envReset_cases (s : State) :
    (quiescent s = true ∧ envReset s =
      .next { s with chips := #v[resetChip 1 s, resetChip 2 s, resetChip 3 s, resetChip 4 s] }) ∨
      envReset s = .refused .resetNotQuiescent := by
  unfold envReset
  split
  · exact .inl ⟨‹_›, rfl⟩
  · exact .inr rfl

section
variable {P : State → Prop} (hP : AtomicInvariant P)
include hP

theorem consumerRun_keeps (k n : Nat) (s : State) (hs : P s) : P (consumerRun k n s) := by
  induction n generalizing s with
  | zero => exact hs
  | succ n ih => exact ih _ (hP.consumer s k hs)

theorem exec_keeps (i : Instr) (s t : State) (hs : P s) (h : exec i s = .next t) : P t := by
  rcases exec_cases i s with ⟨-, he⟩ | ⟨-, st, -, he⟩ | ⟨hb, hi, -⟩
  · rw [he] at h; cases h
  · rw [he] at h; cases h
    exact hP.answer s _ st hs
  · rw [exec_eq_consumerRun hb hi] at h
    rw [← Host.Outcome.next.inj h]
    exact consumerRun_keeps hP _ _ _ (hP.issue s _ i hs hb hi)

theorem issueOnly_keeps (k : Nat) (i : Instr) (s t : State) (hs : P s)
    (h : issueOnly k i s = .next t) : P t := by
  rcases issueThen_cases k i (fun s => s.setFlight k { word := encode i, upc := 1, tmp := {} }) s with
    ⟨-, he⟩ | ⟨-, st, -, he⟩ | ⟨hb, hi, he⟩ <;> rw [issueOnly, he] at h <;> cases h
  · exact hP.answer s k st hs
  · exact hP.issue s k i hs hb hi

theorem rejectWord_keeps (k : Nat) (s t : State) (hs : P s) (h : rejectWord k s = .next t) : P t := by
  rcases rejectWord_cases k s with he | he <;> rw [he] at h <;> cases h
  exact hP.answer s k _ hs

theorem fire_keeps (e : Config.Event) (s t : State) (hs : P s) (h : fire e s = .next t) : P t := by
  cases e with
  | command k w =>
    simp only [fire] at h
    split at h
    · exact exec_keeps hP _ _ t (hP.free s s.agenda s.clock k hs) h
    · exact rejectWord_keeps hP k s t hs h
  | issue k w =>
    simp only [fire] at h
    split at h
    · exact issueOnly_keeps hP k _ s t hs h
    · exact rejectWord_keeps hP k s t hs h
  | consumer k => cases h; exact hP.consumer s k hs
  | iss c => cases h; exact hP.iss s c hs
  | envSet c p v =>
    rcases envSet_cases c p v s with ⟨hc, hp, he⟩ | he <;> rw [fire, he] at h <;> cases h
    exact hP.envSet s c p v hs hc hp
  | envWake c =>
    rcases envWake_cases c s with ⟨hc, he⟩ | he <;> rw [fire, he] at h <;> cases h
    exact hP.envWake s c hs hc
  | reset =>
    rcases envReset_cases s with ⟨hq, he⟩ | he <;> rw [fire, he] at h <;> cases h
    exact hP.reset s hs hq

/-- What every atomic step keeps, every step of the machine keeps. -/
theorem step_keeps_atomicInvariant (s t : State) (hs : P s) (h : step s = .next t) : P t :=
  step_keeps P hP.free (fire_keeps hP) s t hs h

end

/-! ### No move faults (R256, R259) -/

/-- The outcome is a next state or a refusal. -/
def NoFault {σ φ ρ : Type} (o : Host.Outcome σ φ ρ) : Prop := ∀ f, o ≠ .fault f

theorem exec_noFault (i : Instr) (s : State) : NoFault (exec i s) := by
  rcases exec_cases i s with ⟨-, he⟩ | ⟨-, st, -, he⟩ | ⟨-, -, he⟩ <;> rw [he] <;> exact nofun

theorem issueOnly_noFault (k : Nat) (i : Instr) (s : State) : NoFault (issueOnly k i s) := by
  rcases issueThen_cases k i (fun s => s.setFlight k { word := encode i, upc := 1, tmp := {} }) s with
    ⟨-, he⟩ | ⟨-, st, -, he⟩ | ⟨-, -, he⟩ <;> rw [issueOnly, he] <;> exact nofun

theorem rejectWord_noFault (k : Nat) (s : State) : NoFault (rejectWord k s) := by
  rcases rejectWord_cases k s with he | he <;> rw [he] <;> exact nofun

theorem fire_noFault (e : Config.Event) (s : State) : NoFault (fire e s) := by
  cases e with
  | command k w =>
    simp only [fire]
    split
    · exact exec_noFault _ _
    · exact rejectWord_noFault k s
  | issue k w =>
    simp only [fire]
    split
    · exact issueOnly_noFault k _ s
    · exact rejectWord_noFault k s
  | consumer k => exact nofun
  | iss c => exact nofun
  | envSet c p v => rcases envSet_cases c p v s with ⟨-, -, he⟩ | he <;> rw [fire, he] <;> exact nofun
  | envWake c => rcases envWake_cases c s with ⟨-, he⟩ | he <;> rw [fire, he] <;> exact nofun
  | reset => rcases envReset_cases s with ⟨-, he⟩ | he <;> rw [fire, he] <;> exact nofun

/-! ### The planned move and the free choice -/

theorem step_planned {s : State} {e : Config.Event} {rest : List Config.Event}
    (hl : legalBoard s.cfg = true) (ha : s.agenda = e :: rest) :
    step s = fire e { s with agenda := rest } := by
  simp [step, hl, ha]

theorem step_unplanned {s : State} (hl : legalBoard s.cfg = true) (ha : s.agenda = []) :
    step s = fireChosen (Config.nextEvent s.clock) { s with clock := s.clock + 1 } := by
  simp [step, hl, ha]

/-- Settles O5: a planned move is fired with the agenda's rest; the free choice is fired as if planned,
and since no move faults it gives a next state or comes to nothing. -/
theorem stepRunsDecodedCommand : Obligations.StepRunsDecodedCommand := by
  intro s hl
  refine ⟨fun k w i rest ha hw => ?_, fun k rest ha => step_planned hl ha,
    fun c rest ha => step_planned hl ha, fun ha => ⟨Config.nextEvent s.clock, ?_⟩⟩
  · rw [step_planned hl ha, fire, hw]
  · have hs : ({ s with agenda := [], clock := s.clock + 1 } : State) =
        { s with clock := s.clock + 1 } := by rw [← ha]
    rw [step_planned (s := { s with agenda := [Config.nextEvent s.clock], clock := s.clock + 1 }) hl rfl,
      hs, step_unplanned hl ha, fireChosen]
    cases hf : fire (Config.nextEvent s.clock) { s with clock := s.clock + 1 } with
    | next t => exact .inl ⟨t, rfl, rfl⟩
    | fault f => exact absurd hf (fire_noFault _ _ f)
    | refused r => exact .inr ⟨r, rfl, rfl⟩

end Sys2Proof.Proofs
end

section
/-! ## Window addresses (R61) -/

namespace Sys2Proof.Proofs

open Sys2Proof.Machine Sys2Proof.Laws

/-- In a legal configuration a present chip's window ends within the address space, and lies apart from
every other present chip's (R61). -/
theorem legalBoard_windows {cfg : Config.Board} {c : Nat} (hl : legalBoard cfg = true)
    (hc : presentIn cfg c = true) :
    (slotOf cfg c).base.toNat + 10 ≤ 0xFFFF ∧
      ∀ d, presentIn cfg d = true → d ≠ c → overlap cfg c d = false := by
  have h := List.all_eq_true.mp hl c (present_mem hc)
  simp only [hc, Bool.not_true, Bool.false_or, Bool.and_eq_true, decide_eq_true_eq,
    List.all_eq_true] at h
  refine ⟨h.1, fun d hd hne => ?_⟩
  simpa [hd, Ne.symm hne] using h.2 d (present_mem hd)

/-- A search finds the one element that passes. -/
theorem find?_eq_some_of_unique {α : Type} {p : α → Bool} {l : List α} {a : α} (ha : a ∈ l)
    (hp : p a = true) (hu : ∀ b, p b = true → b = a) : l.find? p = some a := by
  cases hf : l.find? p with
  | none => exact absurd hp (List.find?_eq_none.mp hf a ha)
  | some b => rw [hu b (List.find?_some hf)]

/-- Settles O37: an address of chip `c`'s window is an address of no other window, so the search for a
window finds `c`. -/
theorem windowAddressesAreUnique : Obligations.WindowAddressesAreUnique := by
  intro cfg c off hl hc hoff
  obtain ⟨hend, hapart⟩ := legalBoard_windows hl hc
  have haddr : ((slotOf cfg c).base + BitVec.ofNat 16 off).toNat = (slotOf cfg c).base.toNat + off := by
    rw [BitVec.toNat_add, BitVec.toNat_ofNat]
    omega
  unfold windowOf
  rw [haddr, find?_eq_some_of_unique (present_mem hc)]
  · simp
  · simp [hc, hoff]
  · intro d hd
    simp only [Bool.and_eq_true, decide_eq_true_eq] at hd
    obtain ⟨⟨hpd, hlo⟩, hhi⟩ := hd
    by_contra hne
    have hno := hapart d hpd hne
    simp only [overlap, Bool.and_eq_false_iff, decide_eq_false_iff_not] at hno
    omega

end Sys2Proof.Proofs
end

section
/-! ## Canonical forms and valid commands (R7, R42, R50, R256) -/

namespace Sys2Proof.Proofs

open Sys2Proof.Machine Sys2Proof.Laws Sys2Proof.Safety

/-! ### The configuration -/

/-- The configuration is constant (R7). -/
theorem atomicInvariant_cfg (cfg : Config.Board) : AtomicInvariant fun s => s.cfg = cfg where
  free _ _ _ _ h := h
  answer _ _ _ h := h
  issue _ _ _ h _ _ := h
  consumer s k h := by
    rcases consumerStep_cases k s with ⟨-, hs⟩ | ⟨r, i, u, tmp, ch, -, -, -, -, hs⟩ |
      ⟨r, i, st, v, ch, -, -, -, -, hs⟩ <;> rw [hs] <;> exact h
  iss s c h := by
    rcases issStep_cases c s with hs | ⟨u, tmp, ch, -, -, hs⟩ <;> rw [hs] <;> exact h
  envSet _ _ _ _ h _ _ := h
  envWake _ _ h _ := h
  reset _ h _ := h

/-! ### Chips -/

theorem slotIx_lt_of_mem {c : Nat} (h : c ∈ slotNumbers) : slotIx c < 4 := by
  revert c; decide

theorem everyChip_setChip {C : Chip → Prop} {s : State} (c : Nat) {ch : Chip} (hs : EveryChip C s)
    (h : C ch) : EveryChip C (s.setChip c ch) := by
  intro d hd
  by_cases hcd : c = d
  · subst hcd
    rwa [chip_setChip_same s c ch (slotIx_lt_of_mem hd)]
  · rw [chip_setChip_ne s c d ch hcd]
    exact hs d hd

/-- After reset every slot's chip is a reset one. -/
theorem everyChip_reset {C : Chip → Prop} (s : State) (h : ∀ ext n, C (Chip.resetWith ext n)) :
    EveryChip C
      { s with chips := #v[resetChip 1 s, resetChip 2 s, resetChip 3 s, resetChip 4 s] } := by
  intro c hc
  simp only [slotNumbers, List.mem_cons, List.not_mem_nil, or_false] at hc
  rcases hc with rfl | rfl | rfl | rfl <;> exact h _ _

/-- What every operation on a chip keeps, every atomic step keeps of every chip. -/
theorem atomicInvariant_everyChip {C : Chip → Prop} (hC : ChipInvariant C) :
    AtomicInvariant (EveryChip C) where
  free _ _ _ _ h := h
  answer _ _ _ h := h
  issue _ _ _ h _ _ := h
  consumer s k h := by
    rcases consumerStep_cases k s with ⟨-, hs⟩ | ⟨r, i, u, tmp, ch, -, -, hp, hm, hs⟩ |
      ⟨r, i, st, v, ch, -, -, hp, hm, hs⟩ <;> rw [hs]
    · exact h
    · have := meets_programOf hC k (s.irqMode i.chipField) i r.upc.toNat r.tmp
        (h i.chipField (present_mem hp))
      rw [hm] at this
      exact everyChip_setChip _ h this.2
    · have := meets_programOf hC k (s.irqMode i.chipField) i r.upc.toNat r.tmp
        (h i.chipField (present_mem hp))
      rw [hm] at this
      exact everyChip_setChip _ h this
  iss s c h := by
    rcases issStep_cases c s with hs | ⟨u, tmp, ch, hi, hm, hs⟩ <;> rw [hs]
    · exact h
    · have hp : s.present c = true := (Bool.and_eq_true_iff.mp hi).1
      have := meets_progIss hC c (s.chip c).iss.upc.toNat (s.chip c).iss.tmp (h c (present_mem hp))
      rw [hm] at this
      exact everyChip_setChip _ h (hC.iss ch _ this.2)
  envSet s c p v h hp _ := everyChip_setChip _ h (hC.extWrite p v _ (h c (present_mem hp)))
  envWake s c h hp := everyChip_setChip _ h (hC.wake _ (h c (present_mem hp)))
  reset s _ _ := everyChip_reset s hC.reset

/-! ### Event buffers and waiter sets -/

@[simp] theorem writeThrough_sameSets (off : Nat) (v : Byte) (ch : Chip) :
    (writeThrough off v ch).buf = ch.buf ∧ (writeThrough off v ch).waiters = ch.waiters ∧
      (writeThrough off v ch).woken = ch.woken := by
  unfold writeThrough
  rw [(ioWrite_sameBeyondWindow off v _).buf, (ioWrite_sameBeyondWindow off v _).waiters,
    (ioWrite_sameBeyondWindow off v _).woken]
  split <;> exact ⟨rfl, rfl, rfl⟩

@[simp] theorem extWrite_sameSets (p : Nat) (v : Byte) (ch : Chip) :
    (extWrite p v ch).buf = ch.buf ∧ (extWrite p v ch).waiters = ch.waiters ∧
      (extWrite p v ch).woken = ch.woken := by
  unfold extWrite
  rcases captureIf_cases p (line ch p) (bankRead ch.out p 0 ||| v)
    { ch with ext := bankWrite ch.ext p v } with h | h <;> rw [h] <;> exact ⟨rfl, rfl, rfl⟩

@[simp] theorem afterRead_sets (off : Nat) (ch : Chip) :
    (afterRead off ch).waiters = ch.waiters ∧ (afterRead off ch).woken = ch.woken := by
  rcases afterRead_cases off ch with h | h <;> rw [h] <;> exact ⟨rfl, rfl⟩

@[simp] theorem popChip_sets (ch : Chip) :
    (popChip ch).waiters = ch.waiters ∧ (popChip ch).woken = ch.woken := by
  unfold popChip
  split <;> exact ⟨rfl, rfl⟩

/-- The event buffers keep their canonical form: only PUSH writes one (R36, R201). -/
theorem chipInvariant_bufferCanonical : ChipInvariant BufferCanonical where
  wlock _ _ h := h
  qlock _ _ h := h
  afterRead off ch h := by rwa [BufferCanonical, afterRead_buf]
  ioWrite off v ch _ h := by rwa [BufferCanonical, ioWrite_buf]
  writeThrough off v ch h := by rwa [BufferCanonical, (writeThrough_sameSets off v ch).1]
  popChip ch h := by rwa [BufferCanonical, popChip_buf]
  push e ch h := push_buf_wf e ch h
  wake _ h := h
  joinWaiters _ _ h := h
  leaveWaiters _ _ h := h
  iss _ _ h := h
  extWrite p v ch h := by rwa [BufferCanonical, (extWrite_sameSets p v ch).1]
  reset _ _ := memory_nil_wf

/-- The waiter sets stay sets, those woken among those waiting: WAKE takes `WAITERS` over, a consumer
that leaves leaves both (R42, R211, R213). -/
theorem chipInvariant_waitersCanonical : ChipInvariant WaitersCanonical where
  wlock _ _ h := h
  qlock _ _ h := h
  afterRead off ch h := by simpa [WaitersCanonical] using h
  ioWrite off v ch _ h := by
    rwa [WaitersCanonical, (ioWrite_sameBeyondWindow off v ch).waiters,
      (ioWrite_sameBeyondWindow off v ch).woken]
  writeThrough off v ch h := by simpa [WaitersCanonical] using h
  popChip ch h := by simpa [WaitersCanonical] using h
  push _ _ h := h
  wake ch h := ⟨h.1, h.1, fun _ hk => hk⟩
  joinWaiters k ch h := by
    obtain ⟨hwait, hwoken, hsub⟩ := h
    exact ⟨idsInsert_rising k _ hwait, hwoken,
      fun j hj => (mem_idsInsert k j _).mpr (.inr (hsub j hj))⟩
  leaveWaiters k ch h := by
    obtain ⟨hwait, hwoken, hsub⟩ := h
    refine ⟨idsRemove_rising k _ hwait, idsRemove_rising k _ hwoken, fun j hj => ?_⟩
    obtain ⟨hj, hne⟩ := (mem_idsRemove k j _).mp hj
    exact (mem_idsRemove k j _).mpr ⟨hsub j hj, hne⟩
  iss _ _ h := h
  extWrite p v ch h := by simpa [WaitersCanonical] using h
  reset _ _ := ⟨.nil, .nil, nofun⟩

/-! ### Commands in flight -/

/-- The record is of a command that passed its checks, and stands at one of its steps (R50, R255). -/
def RecordValid (s : State) (r : InFlight) : Prop :=
  ∃ i, commandOf r = some i ∧ issueFault i s = none ∧
    StepOf (lastStep (s.irqMode i.chipField) i) r.upc.toNat

theorem flightValid_iff (s : State) :
    FlightValid s ↔ cellsWf s.inflight ∧ ∀ k r, s.flight k = some r → RecordValid s r := Iff.rfl

/-- Only the configuration and the records count. -/
theorem flightValid_of_eq {s t : State} (h : FlightValid s) (hcfg : t.cfg = s.cfg)
    (hfl : t.inflight = s.inflight) : FlightValid t := by
  have hf : ∀ i, issueFault i t = issueFault i s := fun i => by
    rw [issueFault, issueFault, State.present, State.present, hcfg]
  simpa only [FlightValid, State.flight, State.irqMode, hcfg, hfl, hf] using h

theorem flightValid_setFlight {s : State} {k : Nat} {r : InFlight} (h : FlightValid s)
    (hr : RecordValid s r) : FlightValid (s.setFlight k r) := by
  refine ⟨cellsStore_wf k r _ h.1, fun j q hq => ?_⟩
  by_cases hkj : k = j
  · subst hkj
    rw [setFlight_flight_same] at hq
    cases hq
    exact hr
  · rw [setFlight_flight_ne s k j r hkj] at hq
    exact h.2 j q hq

theorem flightValid_endFlight {s : State} (k : Nat) (h : FlightValid s) :
    FlightValid (s.endFlight k) := by
  refine ⟨cellsRemove_wf k _ h.1, fun j q hq => ?_⟩
  by_cases hkj : k = j
  · subst hkj
    rw [endFlight_flight_same] at hq
    cases hq
  · rw [endFlight_flight_ne s k j hkj] at hq
    exact h.2 j q hq

/-- A command enters with its checks passed, moves from step to step of its micro-program, and leaves
with its answer (R50, R255, R256). -/
theorem atomicInvariant_flightValid : AtomicInvariant FlightValid where
  free _ _ _ _ h := h
  answer _ _ _ h := h
  issue s k i h _ hi :=
    flightValid_setFlight h ⟨i, commandOf_encode i s _ _ hi, hi, le_rfl, one_le_lastStep _ _⟩
  consumer s k h := by
    rcases consumerStep_cases k s with ⟨-, hs⟩ | ⟨r, i, u, tmp, ch, hr, hi, -, hm, hs⟩ |
      ⟨r, i, st, v, ch, -, -, -, -, hs⟩ <;> rw [hs]
    · exact h
    · obtain ⟨i', hi', hok, -⟩ := h.2 k r hr
      obtain rfl : i = i' := Option.some.inj (hi.symm.trans hi')
      have hu := programOf_goto_stepOf hm
      refine flightValid_setFlight (s := s.setChip i.chipField ch) h ⟨i, hi, hok, ?_⟩
      rwa [upc_toNat_of_stepOf hu]
    · exact flightValid_endFlight (s := s.setChip i.chipField ch) k h
  iss s c h := by
    rcases issStep_cases c s with hs | ⟨u, tmp, ch, -, -, hs⟩ <;> rw [hs] <;> exact h
  envSet _ _ _ _ h _ _ := h
  envWake _ _ h _ := h
  reset _ h _ := h

/-- Settles O50: each of the four parts is kept by every atomic step. -/
theorem stepKeepsForms : Obligations.StepKeepsForms := by
  intro s t hbuf hwait hflight h
  exact ⟨step_keeps_atomicInvariant (atomicInvariant_cfg s.cfg) s t rfl h,
    step_keeps_atomicInvariant (atomicInvariant_everyChip chipInvariant_bufferCanonical) s t hbuf h,
    step_keeps_atomicInvariant (atomicInvariant_everyChip chipInvariant_waitersCanonical) s t hwait h,
    step_keeps_atomicInvariant atomicInvariant_flightValid s t hflight h⟩

end Sys2Proof.Proofs
end

section
/-! ## Images and latches (R23, R31, R35) -/

namespace Sys2Proof.Proofs

open Sys2Proof.Machine Sys2Proof.Laws Sys2Proof.Safety

/-! ### Image and output register -/

theorem captureIf_out_img (p : Nat) (old new : Byte) (ch : Chip) :
    (captureIf p old new ch).out = ch.out ∧ (captureIf p old new ch).img = ch.img := by
  rcases captureIf_cases p old new ch with h | h <;> rw [h] <;> exact ⟨rfl, rfl⟩

/-- A bus write above the data ports writes no output register (R121). -/
theorem ioWrite_out_of_not_port {off : Nat} (v : Byte) (ch : Chip) (h : 5 < off) :
    (ioWrite off v ch).out = ch.out := by
  unfold ioWrite pagedWrite
  rw [if_neg (by omega)]
  split
  · rfl
  · split
    · split
      · rfl
      · split
        · rfl
        · split <;> rfl
    · rfl

/-- What a bus write to a data port leaves in the output registers (R121). -/
theorem outWrite_out (p : Nat) (v : Byte) (ch : Chip) :
    (outWrite p v ch).out = if portLocked ch p then ch.out else bankWrite ch.out p v := by
  unfold outWrite
  split
  · rfl
  · exact (captureIf_out_img _ _ _ _).1

@[simp] theorem portLocked_img (ch : Chip) (m : Vector Byte 6) (p : Nat) :
    portLocked { ch with img := m } p = portLocked ch p := rfl

/-- The image is written with the byte the output register takes, or neither is written (R22, R133). -/
theorem writeThrough_imageMatches (off : Nat) (v : Byte) (ch : Chip) (h : ImageMatches ch) :
    ImageMatches (writeThrough off v ch) := by
  have himg : ch.img = ch.out := h
  unfold writeThrough
  rw [ImageMatches, (ioWrite_sameBeyondWindow off v _).img]
  by_cases hp : off ≤ 5
  · rw [ioWrite_port off v _ hp, outWrite_out]
    cases hl : portLocked ch off with
    | true => simpa [hl] using himg
    | false => simpa [hl, hp] using congrArg (bankWrite · off v) himg
  · rw [if_neg fun hc => hp hc.1, ioWrite_out_of_not_port v ch (by omega)]
    exact h

theorem chipInvariant_imageMatches : ChipInvariant ImageMatches where
  wlock _ _ h := h
  qlock _ _ h := h
  afterRead off ch h := by rcases afterRead_cases off ch with hr | hr <;> rw [hr] <;> exact h
  ioWrite off v ch hoff h := by
    rwa [ImageMatches, (ioWrite_sameBeyondWindow off v ch).img, ioWrite_out_of_not_port v ch hoff]
  writeThrough := writeThrough_imageMatches
  popChip ch h := by unfold popChip; split <;> exact h
  push _ _ h := h
  wake _ h := h
  joinWaiters _ _ h := h
  leaveWaiters _ _ h := h
  iss _ _ h := h
  extWrite p v ch h := by
    obtain ⟨ho, hi⟩ := captureIf_out_img p (line ch p) (bankRead ch.out p 0 ||| v)
      { ch with ext := bankWrite ch.ext p v }
    rw [ImageMatches, extWrite, ho, hi]
    exact h
  reset _ _ := rfl

/-- Settles O45: every operation on a chip writes output register and image alike. -/
theorem stepKeepsImage : Obligations.StepKeepsImage :=
  step_keeps_atomicInvariant (atomicInvariant_everyChip chipInvariant_imageMatches)

/-! ### Latches of disabled bits -/

/-- A bank read after a write to it: the byte written, in the same place, or what was there. -/
theorem bankRead_bankWrite {α : Type} {n : Nat} (v : Vector α n) (i j : Nat) (x d : α) (h : j < n) :
    bankRead (bankWrite v i x) j d = if i = j then x else bankRead v j d := by
  split
  · subst i; exact bankRead_bankWrite_same v j x d h
  · exact bankRead_bankWrite_ne v i j x d ‹_›

/-- Only enabled bits are latched (R173). -/
theorem edges_and_not_enab (en po old new : Byte) : edges en po old new &&& ~~~en = 0 := by
  ext j hj
  simp only [edges, BitVec.getElem_and, BitVec.getElem_not]
  cases en[j] <;> simp

theorem capture_latchesEnabled (i : Nat) (old new : Byte) (ch : Chip) (h : LatchesEnabled ch) :
    LatchesEnabled (capture i old new ch) := by
  intro j hj
  rw [capture, bankRead_bankWrite _ _ _ _ _ hj]
  split
  · subst i
    rw [BitVec.and_comm, BitVec.and_or_distrib_left, BitVec.and_comm, h j hj, BitVec.and_comm,
      edges_and_not_enab]
    rfl
  · exact h j hj

theorem captureIf_latchesEnabled (p : Nat) (old new : Byte) (ch : Chip) (h : LatchesEnabled ch) :
    LatchesEnabled (captureIf p old new ch) := by
  rcases captureIf_cases p old new ch with hc | hc <;> rw [hc]
  · exact h
  · exact capture_latchesEnabled p old new ch h

/-- Disabling a bit through its enable register clears its latch (R174). -/
theorem pagedWrite_latchesEnabled (i : Nat) (v : Byte) (ch : Chip) (h : LatchesEnabled ch) :
    LatchesEnabled (pagedWrite i v ch) := by
  unfold pagedWrite
  split
  · exact h
  · split
    · exact h
    · split
      · intro j hj
        simp only [bankRead_bankWrite _ _ _ _ _ hj]
        split
        · rw [BitVec.and_assoc, BitVec.and_not_self]
          exact BitVec.and_zero
        · exact h j hj
      · intro j hj
        simp only [bankRead_bankWrite _ _ _ _ _ hj]
        split
        · exact BitVec.zero_and
        · exact h j hj

theorem ioWrite_latchesEnabled (off : Nat) (v : Byte) (ch : Chip) (h : LatchesEnabled ch) :
    LatchesEnabled (ioWrite off v ch) := by
  unfold ioWrite
  split
  · unfold outWrite
    split
    · exact h
    · exact captureIf_latchesEnabled _ _ _ _ h
  · split
    · exact h
    · split
      · exact pagedWrite_latchesEnabled _ v ch h
      · exact h

theorem chipInvariant_latchesEnabled : ChipInvariant LatchesEnabled where
  wlock _ _ h := h
  qlock _ _ h := h
  afterRead off ch h := by rcases afterRead_cases off ch with hr | hr <;> rw [hr] <;> exact h
  ioWrite off v ch _ h := ioWrite_latchesEnabled off v ch h
  writeThrough off v ch h := by
    refine ioWrite_latchesEnabled off v _ ?_
    split <;> exact h
  popChip ch h := by unfold popChip; split <;> exact h
  push _ _ h := h
  wake _ h := h
  joinWaiters _ _ h := h
  leaveWaiters _ _ h := h
  iss _ _ h := h
  extWrite p v ch h := captureIf_latchesEnabled _ _ _ _ h
  reset ext n i hi := by simp [Chip.resetWith, bankRead, hi]

/-- Settles O46: a latch is set for an enabled bit only, and a write that disables a bit clears its
latch. -/
theorem stepKeepsLatchesEnabled : Obligations.StepKeepsLatchesEnabled :=
  step_keeps_atomicInvariant (atomicInvariant_everyChip chipInvariant_latchesEnabled)

end Sys2Proof.Proofs
end

section
/-! ## The event queue keeps its unread events in range (R36, R38, R39, R219) -/

namespace Sys2Proof.Proofs

open Sys2Proof.Machine Sys2Proof.Laws Sys2Proof.Safety

/-- The queue's part of `EventsInRange`. -/
def QueueOk (ch : Chip) : Prop := QueueConsistent ch ∧ UnreadInRange ch

/-- Only the buffer, the two indices and the count matter. -/
theorem queueOk_of_eq {a b : Chip} (h : QueueOk b) (hbuf : a.buf = b.buf) (hqin : a.qin = b.qin)
    (hqout : a.qout = b.qout) (hqcnt : a.qcnt = b.qcnt) : QueueOk a := by
  simpa only [QueueOk, QueueConsistent, UnreadInRange, hbuf, hqin, hqout, hqcnt] using h

theorem queueOk_resetWith (ext : Vector Byte 6) (n : Nat) : QueueOk (Chip.resetWith ext n) :=
  ⟨⟨Nat.zero_le _, rfl⟩, nofun⟩

/-- The slot after the oldest is the second oldest, and so on. -/
theorem slot_succ (a : BitVec 10) (j : Nat) :
    a + 1 + BitVec.ofNat 10 j = a + BitVec.ofNat 10 (j + 1) := by
  rw [BitVec.add_assoc, Nat.add_comm, BitVec.ofNat_add]; rfl

theorem popChip_queueOk (ch : Chip) (h : QueueOk ch) : QueueOk (popChip ch) := by
  obtain ⟨⟨hle, hqin⟩, hun⟩ := h
  unfold popChip
  split
  · exact ⟨⟨hle, hqin⟩, hun⟩
  · rename_i hne
    have hpos : ch.qcnt ≠ 0 := by simpa [queueEmpty] using hne
    have hcnt : (ch.qcnt - 1).toNat = ch.qcnt.toNat - 1 ∧ 1 ≤ ch.qcnt.toNat := by
      constructor <;> bv_omega
    refine ⟨⟨by simp only; omega, ?_⟩, fun j hj => ?_⟩
    · simp only [hqin]
      bv_omega
    · simp only [slot_succ]
      exact hun (j + 1) (by simp only at hj; omega)

/-- Two slots of the buffer are one only where their distances from the oldest agree. -/
theorem slot_injective (a : BitVec 10) {j n : Nat} (hj : j < 1024) (hn : n < 1024)
    (h : (a + BitVec.ofNat 10 j).toNat = (a + BitVec.ofNat 10 n).toNat) : j = n := by
  simp only [BitVec.toNat_add, BitVec.toNat_ofNat] at h
  omega

theorem push_of_full (e : EventNo) {ch : Chip} (h : ch.qcnt = 1024) :
    push e ch =
      { ch with buf := memStore ch.buf ch.qin.toNat e, qin := ch.qin + 1, qout := ch.qout + 1 } := by
  simp [push, queueFull, h]

theorem push_of_not_full (e : EventNo) {ch : Chip} (h : ch.qcnt ≠ 1024) :
    push e ch =
      { ch with buf := memStore ch.buf ch.qin.toNat e, qin := ch.qin + 1, qcnt := ch.qcnt + 1 } := by
  have hf : queueFull ch = false := by simpa [queueFull] using h
  simp [push, hf]

/-- An event in range pushed: the slot it overwrites is the one behind the newest, or, where all 1024
are unread, the oldest, which is dropped (R201). -/
theorem push_queueOk (e : EventNo) (ch : Chip) (he : 1 ≤ e.toNat ∧ e.toNat ≤ 24) (h : QueueOk ch) :
    QueueOk (push e ch) := by
  obtain ⟨⟨hle, hqin⟩, hun⟩ := h
  have hin : ch.qin = ch.qout + BitVec.ofNat 10 ch.qcnt.toNat := by
    rw [hqin]; bv_omega
  have hold : ∀ j, j < ch.qcnt.toNat → (ch.qout + BitVec.ofNat 10 j).toNat ≠ ch.qin.toNat →
      ∃ e', memRead? (memStore ch.buf ch.qin.toNat e) (ch.qout + BitVec.ofNat 10 j).toNat = some e' ∧
        1 ≤ e'.toNat ∧ e'.toNat ≤ 24 := by
    intro j hj hne
    rw [memRead?_store_ne _ _ _ _ hne.symm]
    exact hun j hj
  by_cases hf : ch.qcnt = 1024
  · have hcnt : ch.qcnt.toNat = 1024 := by rw [hf]; rfl
    rw [push_of_full e hf]
    refine ⟨⟨hle, by simp only [hqin, hf]; bv_omega⟩, fun j hj => ?_⟩
    simp only [slot_succ] at hj ⊢
    by_cases hlast : j + 1 = 1024
    · rw [hlast, ← hcnt, ← hin]
      exact ⟨e, memRead?_store_same _ _ _, he⟩
    · refine hold (j + 1) (by omega) fun heq => ?_
      rw [hin, hcnt] at heq
      exact absurd (slot_injective ch.qout (n := 0) (by omega) (by decide) heq) (by omega)
  · have hcnt : (ch.qcnt + 1).toNat = ch.qcnt.toNat + 1 ∧ ch.qcnt.toNat < 1024 := by
      constructor <;> bv_omega
    rw [push_of_not_full e hf]
    refine ⟨⟨by simp only; omega, by simp only [hqin]; bv_omega⟩, fun j hj => ?_⟩
    simp only at hj ⊢
    by_cases hlast : j = ch.qcnt.toNat
    · rw [hlast, ← hin]
      exact ⟨e, memRead?_store_same _ _ _, he⟩
    · refine hold j (by omega) fun heq => hlast ?_
      rw [hin] at heq
      exact slot_injective ch.qout (by omega) hcnt.2 heq

end Sys2Proof.Proofs
end

section
/-! ## What a step of an agent does to what the agents share

The agents meet in the queue, the two locks and the waiter set of a chip; the rest of a chip a step
reaches through the register window.  `Leads Q R m` says where the step `m` leads, where it is taken: one
rule for each shared operation, then one lemma for each micro-program, from which every invariant about
locks, waiters and the queue follows. -/

namespace Sys2Proof.Proofs

open Sys2Proof.Machine Sys2Proof.Laws Sys2Proof.Safety

/-! ### Where a step leads -/

/-- Where the step is taken, it leads to a step number, temporaries and chip that satisfy `Q`, or it
answers and leaves a chip that satisfies `R`. -/
def Leads (Q : Nat → Temps → Chip → Prop) (R : Chip → Prop) : Micro → Prop
  | .wait => True
  | .goto u tmp ch => Q u tmp ch
  | .respond _ _ ch => R ch

section
variable {Q : Nat → Temps → Chip → Prop} {R : Chip → Prop}

theorem leads_acquireW {me : Holder} {n : Nat} {tmp : Temps} {ch : Chip}
    (h : ch.wlock = none → Q n tmp { ch with wlock := some me }) :
    Leads Q R (acquireW me n tmp ch) := by
  rcases acquireW_cases me n tmp ch with ⟨hl, ha⟩ | ⟨-, ha⟩ <;> rw [ha]
  · exact h hl
  · trivial

theorem leads_acquireQ {me : Holder} {n : Nat} {tmp : Temps} {ch : Chip}
    (h : ch.qlock = none → Q n tmp { ch with qlock := some me }) :
    Leads Q R (acquireQ me n tmp ch) := by
  rcases acquireQ_cases me n tmp ch with ⟨hl, ha⟩ | ⟨-, ha⟩ <;> rw [ha]
  · exact h hl
  · trivial

theorem leads_releaseW {me : Holder} {ch : Chip} {k : Chip → Micro}
    (h : ch.wlock = some me → Leads Q R (k { ch with wlock := none })) :
    Leads Q R (releaseW me ch k) := by
  rcases releaseW_cases me ch k with ⟨hl, ha⟩ | ⟨-, ha⟩ <;> rw [ha]
  · exact h hl
  · trivial

theorem leads_releaseQ {me : Holder} {ch : Chip} {k : Chip → Micro}
    (h : ch.qlock = some me → Leads Q R (k { ch with qlock := none })) :
    Leads Q R (releaseQ me ch k) := by
  rcases releaseQ_cases me ch k with ⟨hl, ha⟩ | ⟨-, ha⟩ <;> rw [ha]
  · exact h hl
  · trivial

end

/-! ### Steps through the register window -/

/-- The parts of a chip in which agents meet are the same: queue, locks, `WAITERS`, and the sequencer's
own record. -/
structure SameShared (a b : Chip) : Prop where
  buf : a.buf = b.buf
  qin : a.qin = b.qin
  qout : a.qout = b.qout
  qcnt : a.qcnt = b.qcnt
  wlock : a.wlock = b.wlock
  qlock : a.qlock = b.qlock
  waiters : a.waiters = b.waiters
  iss : a.iss = b.iss

theorem SameShared.rfl {ch : Chip} : SameShared ch ch := by constructor <;> rfl

theorem SameShared.trans {a b c : Chip} (h : SameShared a b) (h' : SameShared b c) : SameShared a c :=
  ⟨h.buf.trans h'.buf, h.qin.trans h'.qin, h.qout.trans h'.qout, h.qcnt.trans h'.qcnt,
    h.wlock.trans h'.wlock, h.qlock.trans h'.qlock, h.waiters.trans h'.waiters, h.iss.trans h'.iss⟩

theorem sameShared_ioWrite (off : Nat) (v : Byte) (ch : Chip) : SameShared (ioWrite off v ch) ch :=
  have h := ioWrite_sameBeyondWindow off v ch
  ⟨h.buf, h.qin, h.qout, h.qcnt, h.wlock, h.qlock, h.waiters, h.iss⟩

theorem sameShared_afterRead (off : Nat) (ch : Chip) : SameShared (afterRead off ch) ch := by
  rcases afterRead_cases off ch with h | h <;> rw [h] <;> constructor <;> rfl

theorem sameShared_writeThrough (off : Nat) (v : Byte) (ch : Chip) :
    SameShared (writeThrough off v ch) ch := by
  refine (sameShared_ioWrite off v _).trans ?_
  split <;> constructor <;> rfl

theorem sameShared_extWrite (p : Nat) (v : Byte) (ch : Chip) : SameShared (extWrite p v ch) ch := by
  unfold extWrite
  rcases captureIf_cases p (line ch p) (bankRead ch.out p 0 ||| v)
    { ch with ext := bankWrite ch.ext p v } with h | h <;> rw [h] <;> constructor <;> rfl

theorem sameShared_wake (ch : Chip) : SameShared (wake ch) ch := by constructor <;> rfl

/-- `IssResultInRange`, of a step number and a result. -/
def ResultAt (u : Nat) (r : EventNo) : Prop :=
  (u = 8 ∨ u = 9 ∨ u = 17 → r.toNat ≤ 24) ∧
  ((10 ≤ u ∧ u ≤ 16) ∨ (18 ≤ u ∧ u ≤ 20) → 1 ≤ r.toNat ∧ r.toNat ≤ 24)

/-- A result in range may stand anywhere. -/
theorem resultAt_of_range (u : Nat) {r : EventNo} (h : 1 ≤ r.toNat ∧ r.toNat ≤ 24) : ResultAt u r :=
  ⟨fun _ => h.2, fun _ => h⟩

theorem resultAt_zero {u : Nat} (h : u ≤ 9 ∨ u = 17) : ResultAt u 0 :=
  ⟨fun _ => Nat.zero_le _, by omega⟩

/-- Outside POLL's last two steps, CLEARPULSE and PUSH the result may be anything. -/
theorem resultAt_of_early {u : Nat} (r : EventNo) (h : u ≤ 7) : ResultAt u r := ⟨by omega, by omega⟩

/-- What POLL finds is a bit number of the board's three interrupting ports (R183). -/
theorem foundIn_range {i : Nat} (v : Byte) (hi : i ≤ 2) :
    1 ≤ (foundIn i v).toNat ∧ (foundIn i v).toNat ≤ 24 := by
  have hl := lsb_lt v
  have h : (foundIn i v).toNat = (i * 8 + lsb v + 1) % 64 := by
    rw [foundIn, bitNo, BitVec.toNat_ofNat]
  omega

section
variable {Q : Nat → Temps → Chip → Prop} {R : Chip → Prop}

theorem leads_readTo {c off n : Nat} {tmp : Temps} {ch : Chip}
    (h : ∀ t ch', SameShared ch' ch → Q n { tmp with t := t } ch') :
    Leads Q R (readTo c off n tmp ch) := h _ _ (sameShared_afterRead off ch)

theorem leads_writeFrom {off n : Nat} {v : Byte} {tmp : Temps} {ch : Chip}
    (h : ∀ ch', SameShared ch' ch → Q n tmp ch') : Leads Q R (writeFrom off v n tmp ch) :=
  h _ (sameShared_ioWrite off v ch)

/-- CLEARPULSE stays at its own seven positions and the one after them, and leaves the result (R180). -/
theorem leads_clearPulse {c b base pos : Nat} {tmp : Temps} {ch : Chip}
    (h : 1 ≤ pos → pos ≤ 7 → ∀ t ch', SameShared ch' ch → Q (base + pos) { tmp with t := t } ch') :
    Leads Q R (clearPulse c b base pos tmp ch) := by
  unfold clearPulse
  split
  · exact leads_readTo (h (by decide) (by decide))
  · exact leads_writeFrom (h (by decide) (by decide) tmp.t)
  · exact leads_readTo (h (by decide) (by decide))
  · exact leads_writeFrom (h (by decide) (by decide) tmp.t)
  · exact leads_writeFrom (h (by decide) (by decide) tmp.t)
  · exact leads_readTo (h (by decide) (by decide))
  · exact leads_writeFrom (h (by decide) (by decide) tmp.t)
  · trivial

/-- A step of `scanPort` finds a bit of the port or goes on (R183). -/
theorem leads_scanPort {c i found next : Nat} {missed : EventNo} {tmp : Temps} {ch : Chip} (hi : i ≤ 2)
    (hfound : ∀ t r ch', 1 ≤ r.toNat ∧ r.toNat ≤ 24 → SameShared ch' ch →
      Q found { tmp with t := t, r := r } ch')
    (hmissed : ∀ t ch', SameShared ch' ch → Q next { tmp with t := t, r := missed } ch') :
    Leads Q R (scanPort c i found next missed tmp ch) := by
  unfold scanPort
  split
  · exact hmissed _ _ (sameShared_afterRead _ ch)
  · exact hfound _ _ _ (foundIn_range _ hi) (sameShared_afterRead _ ch)

/-- SERVICE stays at its fifteen positions and the one after them, and its result stays in the range that
the sequencer's position asks for, whose SERVICE stands at 2 (R183, R185, R215). -/
theorem leads_service {c base pos : Nat} {tmp : Temps} {ch : Chip}
    (h : 1 ≤ pos → pos ≤ 15 → ∀ d tmp' ch', d ≤ 15 →
      (ResultAt (pos + 1) tmp.r → ResultAt (d + 2) tmp'.r) → SameShared ch' ch →
      Q (base + d) tmp' ch') :
    Leads Q R (service c base pos tmp ch) := by
  unfold service
  split
  · unfold poll
    split
    · split
      · exact h (by decide) (by decide) 15 _ _ le_rfl (fun _ => resultAt_zero (.inr rfl))
          (sameShared_afterRead 6 ch)
      · exact h (by decide) (by decide) 1 _ _ (by decide) (fun _ => resultAt_of_early _ (by decide))
          (sameShared_afterRead 6 ch)
    · exact leads_readTo fun t ch' =>
        h (by decide) (by decide) 2 _ ch' (by decide) fun _ => resultAt_of_early _ (by decide)
    · exact leads_writeFrom fun ch' =>
        h (by decide) (by decide) 3 _ ch' (by decide) fun _ => resultAt_of_early _ (by decide)
    · exact leads_scanPort (by decide)
        (fun t r ch' hr => h (by decide) (by decide) 6 _ ch' (by decide) fun _ => resultAt_of_range _ hr)
        (fun t ch' => h (by decide) (by decide) 4 _ ch' (by decide) fun _ =>
          resultAt_of_early _ (by decide))
    · exact leads_scanPort (by decide)
        (fun t r ch' hr => h (by decide) (by decide) 6 _ ch' (by decide) fun _ => resultAt_of_range _ hr)
        (fun t ch' => h (by decide) (by decide) 5 _ ch' (by decide) fun _ =>
          resultAt_of_early _ (by decide))
    · exact leads_scanPort (by decide)
        (fun t r ch' hr => h (by decide) (by decide) 6 _ ch' (by decide) fun _ => resultAt_of_range _ hr)
        (fun t ch' => h (by decide) (by decide) 6 _ ch' (by decide) fun _ =>
          resultAt_zero (.inl (by decide)))
    · exact leads_readTo fun t ch' =>
        h (by decide) (by decide) 7 _ ch' (by decide) fun hr => ⟨fun _ => hr.1 (by decide), by omega⟩
    · refine leads_writeFrom fun ch' hsame => ?_
      split
      · rename_i hzero
        exact h (by decide) (by decide) 15 _ ch' le_rfl
          (fun _ => hzero ▸ resultAt_zero (.inr rfl)) hsame
      · rename_i hne
        refine h (by decide) (by decide) 8 _ ch' (by decide)
          (fun hr => resultAt_of_range _ ⟨?_, ?_⟩) hsame
        · exact Nat.pos_of_ne_zero fun hz => hne (BitVec.eq_of_toNat_eq hz)
        · exact hr.1 (by decide)
    · trivial
  · refine leads_clearPulse fun _ hpos t ch' hsame => ?_
    have h15 := h (by omega) (by omega) pos { tmp with t := t } ch' (by omega)
      (fun hr => resultAt_of_range _ (hr.2 (by omega))) hsame
    rwa [show base + 8 + (pos - 8) = base + pos by omega]

end

/-! ### Locks, waiter set, queue -/

/-- Where an agent stands: between its `Acquire` and `Release` of each lock, and between its join and its
leave of `WAITERS`. -/
structure Standing where
  window : Bool
  queue : Bool
  waiting : Bool

/-- Outside them all. -/
def Standing.idle : Standing := ⟨false, false, false⟩

/-- What a step of `me` does to a lock, and to whether `me` stands inside it. -/
inductive LockMove (me : Holder) : Option Holder → Option Holder → Bool → Bool → Prop
  | keep (l : Option Holder) (held : Bool) : LockMove me l l held held
  | acquire (held : Bool) : LockMove me none (some me) held true
  | release (held : Bool) : LockMove me (some me) none held false

/-- What a step of `me` does to `WAITERS`, and to whether `me` stands between join and leave. -/
inductive SetMove (me : Holder) : List Nat → List Nat → Bool → Bool → Prop
  | keep (l : List Nat) (waits : Bool) : SetMove me l l waits waits
  | join (k : Nat) (l : List Nat) (waits : Bool) :
    me = .consumer k → SetMove me l (idsInsert k l) waits true
  | leave (k : Nat) (l : List Nat) (waits : Bool) :
    me = .consumer k → SetMove me l (idsRemove k l) waits false

/-- What a step of `me` from `ch` to `ch'` does to what the agents share, while `me`'s standing goes from
`st` to `st'`; the queue's events stay in range where what `me` pushes is (`ok`). -/
structure Effect (me : Holder) (ok : Prop) (ch ch' : Chip) (st st' : Standing) : Prop where
  window : LockMove me ch.wlock ch'.wlock st.window st'.window
  queue : LockMove me ch.qlock ch'.qlock st.queue st'.queue
  waiters : SetMove me ch.waiters ch'.waiters st.waiting st'.waiting
  events : ok → QueueOk ch → QueueOk ch'
  iss : ch'.iss = ch.iss

section
variable {me : Holder} {ok : Prop} {ch ch' : Chip} {st st' : Standing}

theorem effect_of_same (h : SameShared ch' ch) (hst : st' = st) : Effect me ok ch ch' st st' where
  window := by rw [hst, h.wlock]; exact .keep _ _
  queue := by rw [hst, h.qlock]; exact .keep _ _
  waiters := by rw [hst, h.waiters]; exact .keep _ _
  events _ hq := queueOk_of_eq hq h.buf h.qin h.qout h.qcnt
  iss := h.iss

theorem effect_acquireW (h : ch.wlock = none) (hst : st' = { st with window := true }) :
    Effect me ok ch { ch with wlock := some me } st st' := by
  subst hst
  exact ⟨h ▸ .acquire _, .keep _ _, .keep _ _, fun _ hq => hq, rfl⟩

theorem effect_acquireQ (h : ch.qlock = none) (hst : st' = { st with queue := true }) :
    Effect me ok ch { ch with qlock := some me } st st' := by
  subst hst
  exact ⟨.keep _ _, h ▸ .acquire _, .keep _ _, fun _ hq => hq, rfl⟩

theorem effect_releaseW (h : ch.wlock = some me) (hst : st' = { st with window := false }) :
    Effect me ok ch { ch with wlock := none } st st' := by
  subst hst
  exact ⟨h ▸ .release _, .keep _ _, .keep _ _, fun _ hq => hq, rfl⟩

theorem effect_releaseQ (h : ch.qlock = some me) (hst : st' = { st with queue := false }) :
    Effect me ok ch { ch with qlock := none } st st' := by
  subst hst
  exact ⟨.keep _ _, h ▸ .release _, .keep _ _, fun _ hq => hq, rfl⟩

theorem popChip_locks (ch : Chip) :
    (popChip ch).wlock = ch.wlock ∧ (popChip ch).qlock = ch.qlock ∧ (popChip ch).iss = ch.iss := by
  unfold popChip
  split <;> exact ⟨rfl, rfl, rfl⟩

theorem effect_popChip (hst : st' = st) : Effect me ok ch (popChip ch) st st' := by
  subst hst
  obtain ⟨hw, hq, hiss⟩ := popChip_locks ch
  exact ⟨hw ▸ .keep _ _, hq ▸ .keep _ _, (popChip_sets ch).1 ▸ .keep _ _,
    fun _ => popChip_queueOk ch, hiss⟩

end

section
variable {k : Nat} {ok : Prop} {ch ch' : Chip} {st st' st'' : Standing}

/-- A step that leaves `WAITERS` alone, and then joins it. -/
theorem Effect.join (h : Effect (.consumer k) ok ch ch' st st') (hw : ch'.waiters = ch.waiters)
    (hst : st'' = { st' with waiting := true }) :
    Effect (.consumer k) ok ch (joinWaiters k ch') st st'' := by
  subst hst
  exact ⟨h.window, h.queue, by rw [joinWaiters, hw]; exact .join k _ _ rfl, h.events, h.iss⟩

/-- A step that first leaves `WAITERS`, and then leaves it alone. -/
theorem Effect.after_leave (h : Effect (.consumer k) ok (leaveWaiters k ch) ch' st st')
    (hw : ch'.waiters = (leaveWaiters k ch).waiters) (hst : st'' = { st' with waiting := false }) :
    Effect (.consumer k) ok ch ch' st st'' := by
  subst hst
  exact ⟨h.window, h.queue, hw ▸ .leave k _ _ rfl, h.events, h.iss⟩

end

end Sys2Proof.Proofs
end

section
/-! ## What each step of each micro-program does to what the agents share -/

namespace Sys2Proof.Proofs

open Sys2Proof.Machine Sys2Proof.Laws Sys2Proof.Safety

/-- The steps before which a WAIT_INT's consumer is in `WAITERS`: `standsWaiting`, of any command. -/
def waitsAt (irqMode : Bool) (i : Instr) (upc : Nat) (r : EventNo) : Bool :=
  match i with
  | .waitInt _ =>
    if irqMode then (upc == 3 && r == 0) || upc == 4 || upc == 5
    else upc == 20 || upc == 21 || upc == 22
  | _ => false

/-- Where the consumer of a command stands before step `upc`. -/
def commandStanding (irqMode : Bool) (i : Instr) (upc : Nat) (tmp : Temps) : Standing :=
  ⟨holdsWindow irqMode i upc, holdsQueue irqMode i upc, waitsAt irqMode i upc tmp.r⟩

/-- Where the sequencer stands before step `upc`; it waits in no set. -/
def issStanding (upc : Nat) : Standing := ⟨issHoldsWindow upc, issHoldsQueue upc, false⟩

theorem commandStanding_clearInt (m : Bool) (c b : Nat) {u : Nat} (tmp : Temps) (h : 2 ≤ u)
    (h' : u ≤ 9) : commandStanding m (.clearInt c b) u tmp = ⟨true, false, false⟩ := by
  simp [commandStanding, holdsWindow, holdsQueue, waitsAt, h, h']

theorem commandStanding_getPolled (c : Nat) {u : Nat} (tmp : Temps) (h : 2 ≤ u) (h' : u ≤ 17) :
    commandStanding false (.getInt c) u tmp = ⟨true, false, false⟩ := by
  simp [commandStanding, holdsWindow, holdsQueue, waitsAt, h, h']

/-- A polled WAIT_INT holds the window around each of its two services and nothing else there. -/
theorem commandStanding_waitPolled (c : Nat) {u : Nat} (tmp : Temps)
    (h : (2 ≤ u ∧ u ≤ 17) ∨ (25 ≤ u ∧ u ≤ 40)) :
    commandStanding false (.waitInt c) u tmp = ⟨true, false, false⟩ := by
  simp [commandStanding, holdsWindow, holdsQueue, waitsAt, h]
  omega

/-- Having popped, a buffered WAIT_INT is in `WAITERS` where it found nothing (R211). -/
theorem commandStanding_waitBuffered_missed (c : Nat) {tmp : Temps} (h : tmp.r = 0) :
    commandStanding true (.waitInt c) 3 tmp = ⟨false, true, true⟩ := by
  simp [commandStanding, holdsWindow, holdsQueue, waitsAt, h]

theorem commandStanding_waitBuffered_found (c : Nat) {tmp : Temps} (h : tmp.r ≠ 0) :
    commandStanding true (.waitInt c) 3 tmp = ⟨false, true, false⟩ := by
  have hr : ¬tmp.r = 0#6 := h
  simp [commandStanding, holdsWindow, holdsQueue, waitsAt, hr]

/-- The step, taken by consumer `k` from `ch` and the standing `st`, does to what the agents share what
its next standing `S` says; an answer leaves the consumer outside everything. -/
abbrev Effects (k : Nat) (ch : Chip) (st : Standing) (S : Nat → Temps → Standing) : Micro → Prop :=
  Leads (fun u tmp ch' => Effect (.consumer k) True ch ch' st (S u tmp))
    (fun ch' => Effect (.consumer k) True ch ch' st .idle)

section
variable {k : Nat} {ch : Chip} {st : Standing} {S : Nat → Temps → Standing}

/-! ### The shared operations -/

theorem effects_acquireW {n : Nat} {tmp : Temps} (hS : S n tmp = { st with window := true }) :
    Effects k ch st S (acquireW (.consumer k) n tmp ch) :=
  leads_acquireW fun h => effect_acquireW h hS

theorem effects_acquireQ {n : Nat} {tmp : Temps} (hS : S n tmp = { st with queue := true }) :
    Effects k ch st S (acquireQ (.consumer k) n tmp ch) :=
  leads_acquireQ fun h => effect_acquireQ h hS

theorem effects_releaseW_goto {n : Nat} {tmp : Temps} (hS : S n tmp = { st with window := false }) :
    Effects k ch st S (releaseW (.consumer k) ch fun ch' => .goto n tmp ch') :=
  leads_releaseW fun h => effect_releaseW h hS

theorem effects_releaseQ_goto {n : Nat} {tmp : Temps} (hS : S n tmp = { st with queue := false }) :
    Effects k ch st S (releaseQ (.consumer k) ch fun ch' => .goto n tmp ch') :=
  leads_releaseQ fun h => effect_releaseQ h hS

theorem effects_releaseW_respond {s : Status} {v : Byte}
    (hst : .idle = ({ st with window := false } : Standing)) :
    Effects k ch st S (releaseW (.consumer k) ch fun ch' => .respond s v ch') :=
  leads_releaseW fun h => effect_releaseW h hst

theorem effects_releaseQ_respond {s : Status} {v : Byte}
    (hst : .idle = ({ st with queue := false } : Standing)) :
    Effects k ch st S (releaseQ (.consumer k) ch fun ch' => .respond s v ch') :=
  leads_releaseQ fun h => effect_releaseQ h hst

theorem effects_readTo {c off n : Nat} {tmp : Temps} (hS : ∀ t, S n { tmp with t := t } = st) :
    Effects k ch st S (readTo c off n tmp ch) :=
  leads_readTo fun t _ h => effect_of_same h (hS t)

theorem effects_writeFrom {off n : Nat} {v : Byte} {tmp : Temps} (hS : S n tmp = st) :
    Effects k ch st S (writeFrom off v n tmp ch) :=
  leads_writeFrom fun _ h => effect_of_same h hS

theorem effects_selectRead {c n : Nat} {tmp : Temps} (hS : ∀ t, S n { tmp with t := t } = st) :
    Effects k ch st S (selectRead c n tmp ch) := effects_readTo hS

theorem effects_selectWrite {pg : BitVec 2} {n : Nat} {tmp : Temps} (hS : S n tmp = st) :
    Effects k ch st S (selectWrite pg n tmp ch) := effects_writeFrom hS

theorem effects_clearPulse {c b base pos : Nat} {tmp : Temps}
    (hS : 1 ≤ pos → pos ≤ 7 → ∀ t, S (base + pos) { tmp with t := t } = st) :
    Effects k ch st S (clearPulse c b base pos tmp ch) :=
  leads_clearPulse fun h1 h7 t _ h => effect_of_same h (hS h1 h7 t)

theorem effects_service {c base pos : Nat} {tmp : Temps}
    (hS : 1 ≤ pos → pos ≤ 15 → ∀ d tmp', d ≤ 15 → S (base + d) tmp' = st) :
    Effects k ch st S (service c base pos tmp ch) :=
  leads_service fun h1 h15 d tmp' _ hd _ h => effect_of_same h (hS h1 h15 d tmp' hd)

end

section
variable (k : Nat) (m : Bool) (ch : Chip) (upc : Nat) (tmp : Temps)

/-- Step `upc` of command `i`, as the micro-program `p` takes it. -/
abbrev StepEffects (i : Instr) (p : Program) : Prop :=
  Effects k ch (commandStanding m i upc tmp) (commandStanding m i) (p upc tmp ch)

/-! ### The micro-programs -/

theorem effects_progReadPort (c off : Nat) :
    StepEffects k m ch upc tmp (.readPort c off) (progReadPort c off) := by
  unfold StepEffects progReadPort
  split
  · exact effect_of_same (sameShared_afterRead off ch) rfl
  · trivial

theorem effects_progReadBit (c b : Nat) :
    StepEffects k m ch upc tmp (.readBit c b) (progReadBit c b) := by
  unfold StepEffects progReadBit
  split
  · exact effect_of_same (sameShared_afterRead _ ch) rfl
  · trivial

theorem effects_progWritePort (c off : Nat) (v : Byte) :
    StepEffects k m ch upc tmp (.writePort c off v) (progWritePort (.consumer k) off v) := by
  unfold StepEffects progWritePort
  split
  · exact effects_acquireW rfl
  · exact effect_of_same (sameShared_writeThrough off v ch) rfl
  · exact effects_releaseW_respond rfl
  · trivial

/-- WRITE_BIT, SET_BIT and CLR_BIT run one micro-program and stand alike. -/
theorem effects_progWriteBit {i : Instr} (b : Nat) (val : Bool)
    (hi : ∀ u t, commandStanding m i u t = ⟨2 ≤ u && u ≤ 3, false, false⟩) :
    StepEffects k m ch upc tmp i (progWriteBit (.consumer k) b val) := by
  unfold StepEffects progWriteBit
  split
  · exact effects_acquireW (by simp [hi])
  · exact effect_of_same (sameShared_writeThrough _ _ ch) (by simp [hi])
  · exact effects_releaseW_respond (by simp [hi, Standing.idle])
  · trivial

theorem effects_progLockPort (c p : Nat) :
    StepEffects k m ch upc tmp (.lockPort c p) (progLockPort (.consumer k) c p) := by
  unfold StepEffects progLockPort
  split
  · exact effects_acquireW rfl
  · exact effects_readTo fun _ => rfl
  · exact effects_writeFrom rfl
  · exact effects_releaseW_respond rfl
  · trivial

theorem effects_progUnlockPort (c p : Nat) :
    StepEffects k m ch upc tmp (.unlockPort c p) (progUnlockPort (.consumer k) c p) := by
  unfold StepEffects progUnlockPort
  split
  · exact effects_acquireW rfl
  · exact effects_readTo fun _ => rfl
  · exact effects_writeFrom rfl
  · exact effects_releaseW_respond rfl
  · trivial

theorem effects_progEnableInt (c b : Nat) (v : Byte) (rising : Bool) :
    StepEffects k m ch upc tmp (.enableInt c b v) (progEnableInt (.consumer k) c b rising) := by
  unfold StepEffects progEnableInt
  split
  · exact effects_acquireW rfl
  · exact effects_selectRead fun _ => rfl
  · exact effects_selectWrite rfl
  · exact effects_readTo fun _ => rfl
  · exact effects_writeFrom rfl
  · exact effects_selectRead fun _ => rfl
  · exact effects_selectWrite rfl
  · exact effects_readTo fun _ => rfl
  · exact effects_writeFrom rfl
  · exact effects_selectRead fun _ => rfl
  · exact effects_selectWrite rfl
  · exact effects_releaseW_respond rfl
  · trivial

theorem effects_progDisableInt (c b : Nat) :
    StepEffects k m ch upc tmp (.disableInt c b) (progDisableInt (.consumer k) c b) := by
  unfold StepEffects progDisableInt
  split
  · exact effects_acquireW rfl
  · exact effects_selectRead fun _ => rfl
  · exact effects_selectWrite rfl
  · exact effects_readTo fun _ => rfl
  · exact effects_writeFrom rfl
  · exact effects_selectRead fun _ => rfl
  · exact effects_selectWrite rfl
  · exact effects_releaseW_respond rfl
  · trivial

theorem effects_progClearIntId (c p : Nat) :
    StepEffects k m ch upc tmp (.clearIntId c p) (progClearIntId (.consumer k) c p) := by
  unfold StepEffects progClearIntId
  split
  · exact effects_acquireW rfl
  · exact effects_selectRead fun _ => rfl
  · exact effects_selectWrite rfl
  · exact effects_writeFrom rfl
  · exact effects_selectRead fun _ => rfl
  · exact effects_selectWrite rfl
  · exact effects_releaseW_respond rfl
  · trivial

theorem effects_progClearInt (c b : Nat) :
    StepEffects k m ch upc tmp (.clearInt c b) (progClearInt (.consumer k) c b) := by
  unfold StepEffects progClearInt
  split
  · exact effects_acquireW rfl
  · exact effects_releaseW_respond rfl
  · refine effects_clearPulse fun h1 h7 t => ?_
    rw [commandStanding_clearInt _ _ _ _ (by omega) (by omega),
      commandStanding_clearInt _ _ _ _ (by omega) (by omega)]

theorem effects_progGetBuffered (c : Nat) :
    StepEffects k true ch upc tmp (.getInt c) (progGetBuffered (.consumer k) c) := by
  unfold StepEffects progGetBuffered
  split
  · exact effects_acquireQ rfl
  · exact effect_popChip rfl
  · exact effects_releaseQ_respond rfl
  · trivial

theorem effects_progGetPolled (c : Nat) :
    StepEffects k false ch upc tmp (.getInt c) (progGetPolled (.consumer k) c) := by
  unfold StepEffects progGetPolled
  split
  · exact effects_acquireW rfl
  · exact effects_releaseW_respond rfl
  · refine effects_service fun h1 h15 d tmp' hd => ?_
    rw [commandStanding_getPolled _ _ (by omega) (by omega),
      commandStanding_getPolled _ _ (by omega) (by omega)]

theorem effects_progWaitBuffered (c : Nat) :
    StepEffects k true ch upc tmp (.waitInt c) (progWaitBuffered k c) := by
  unfold StepEffects progWaitBuffered
  split
  · exact effects_acquireQ rfl
  · split
    · rename_i hr
      exact (effect_popChip rfl).join (popChip_sets ch).1 (commandStanding_waitBuffered_missed c hr)
    · rename_i hr
      exact effect_popChip (commandStanding_waitBuffered_found c hr)
  · by_cases hr : tmp.r = 0
    · simp only [if_pos hr, commandStanding_waitBuffered_missed c hr]
      exact effects_releaseQ_goto rfl
    · simp only [if_neg hr, commandStanding_waitBuffered_found c hr]
      exact effects_releaseQ_respond rfl
  · split
    · exact effects_acquireQ rfl
    · trivial
  · exact (effect_popChip rfl).after_leave (popChip_sets _).1 rfl
  · exact effects_releaseQ_respond rfl
  · trivial

theorem effects_progWaitPolled (c : Nat) :
    StepEffects k false ch upc tmp (.waitInt c) (progWaitPolled k c) := by
  unfold StepEffects progWaitPolled
  split
  · exact effects_acquireW rfl
  · by_cases hr : tmp.r = 0
    · simp only [if_pos hr]
      exact effects_releaseW_goto rfl
    · simp only [if_neg hr]
      exact effects_releaseW_respond rfl
  · exact effects_acquireQ rfl
  · exact (effect_of_same .rfl rfl).join rfl rfl
  · exact effects_releaseQ_goto rfl
  · split
    · exact effects_acquireQ rfl
    · trivial
  · exact (effect_of_same .rfl rfl).after_leave rfl rfl
  · exact effects_releaseQ_goto rfl
  · exact effects_acquireW rfl
  · exact effects_releaseW_respond rfl
  · split
    · refine effects_service fun h1 h15 d tmp' hd => ?_
      rw [commandStanding_waitPolled _ _ (by omega), commandStanding_waitPolled _ _ (by omega)]
    · refine effects_service fun h1 h15 d tmp' hd => ?_
      rw [commandStanding_waitPolled _ _ (by omega), commandStanding_waitPolled _ _ (by omega)]

/-- What a taken step of any command does to what the agents share (R40, R42, R76, R77). -/
theorem effects_programOf (i : Instr) : StepEffects k m ch upc tmp i (programOf k m i) := by
  cases i with
  | readPort c x => exact effects_progReadPort k m ch upc tmp c x
  | writePort c x v => exact effects_progWritePort k m ch upc tmp c x v
  | readBit c x => exact effects_progReadBit k m ch upc tmp c x
  | writeBit c x v => exact effects_progWriteBit k m ch upc tmp x _ fun _ _ => rfl
  | setBit c x => exact effects_progWriteBit k m ch upc tmp x _ fun _ _ => rfl
  | clrBit c x => exact effects_progWriteBit k m ch upc tmp x _ fun _ _ => rfl
  | enableInt c x v => exact effects_progEnableInt k m ch upc tmp c x v _
  | disableInt c x => exact effects_progDisableInt k m ch upc tmp c x
  | clearInt c x => exact effects_progClearInt k m ch upc tmp c x
  | getInt c =>
    cases m with
    | false => exact effects_progGetPolled k ch upc tmp c
    | true => exact effects_progGetBuffered k ch upc tmp c
  | waitInt c =>
    cases m with
    | false => exact effects_progWaitPolled k ch upc tmp c
    | true => exact effects_progWaitBuffered k ch upc tmp c
  | clearIntId c x => exact effects_progClearIntId k m ch upc tmp c x
  | lockPort c x => exact effects_progLockPort k m ch upc tmp c x
  | unlockPort c x => exact effects_progUnlockPort k m ch upc tmp c x

end

/-! ### The sequencer -/

/-- What a taken step of the sequencer, from `upc` and `tmp` to `u` and `tmp'`, does: to what the agents
share, and to its result (R215). -/
def IssEffect (upc : Nat) (tmp : Temps) (ch : Chip) (u : Nat) (tmp' : Temps) (ch' : Chip) : Prop :=
  Effect .iss (ResultAt upc tmp.r) ch ch' (issStanding upc) (issStanding u) ∧
    (ResultAt upc tmp.r → ResultAt u tmp'.r)

theorem issStanding_service {u : Nat} (h : 2 ≤ u) (h' : u ≤ 17) :
    issStanding u = ⟨true, false, false⟩ := by
  simp [issStanding, issHoldsWindow, issHoldsQueue, h, h']
  omega

/-- The sequencer's push, and the wake with it, under the queue lock (R201, R213, R215). -/
theorem effect_push (tmp : Temps) (ch : Chip) :
    Effect .iss (ResultAt 19 tmp.r) ch (wake (push tmp.r ch)) (issStanding 19) (issStanding 20) where
  window := .keep _ _
  queue := .keep _ _
  waiters := .keep _ _
  events hr hq := push_queueOk tmp.r ch (hr.2 (by decide)) hq
  iss := rfl

theorem effects_progIss (c upc : Nat) (tmp : Temps) (ch : Chip) :
    Leads (IssEffect upc tmp ch) (fun _ => True) (progIss c upc tmp ch) := by
  unfold progIss
  split
  · split
    · exact leads_acquireW fun h => ⟨effect_acquireW h rfl, fun _ => resultAt_of_early _ (by decide)⟩
    · trivial
  · split
    · exact leads_acquireW fun h => ⟨effect_acquireW h rfl, fun _ => resultAt_of_early _ (by decide)⟩
    · trivial
  · refine leads_releaseW fun h => ?_
    split
    · exact ⟨effect_releaseW h rfl, fun _ => resultAt_of_early _ (by decide)⟩
    · rename_i hne
      refine ⟨effect_releaseW h rfl, fun hr => resultAt_of_range _ ⟨?_, hr.1 (by decide)⟩⟩
      exact Nat.pos_of_ne_zero fun hz => hne (BitVec.eq_of_toNat_eq hz)
  · exact leads_acquireQ fun h =>
      ⟨effect_acquireQ h rfl, fun hr => resultAt_of_range _ (hr.2 (by decide))⟩
  · exact ⟨effect_push tmp ch, fun hr => resultAt_of_range _ (hr.2 (by decide))⟩
  · exact leads_releaseQ fun h => ⟨effect_releaseQ h rfl, fun _ => resultAt_of_early _ (by decide)⟩
  · refine leads_service fun h1 h15 d tmp' ch' hd hres hsame => ?_
    rw [show upc - 1 + 1 = upc by omega, Nat.add_comm d 2] at hres
    refine ⟨effect_of_same hsame ?_, hres⟩
    rw [issStanding_service (by omega) (by omega), issStanding_service (by omega) (by omega)]

end Sys2Proof.Proofs
end

section
/-! ## Queues, lock discipline and waiter sets are kept (R38 to R42, R76, R77, R211, R219) -/

namespace Sys2Proof.Proofs

open Sys2Proof.Machine Sys2Proof.Laws Sys2Proof.Safety

/-! ### A step of an agent, on its chip -/

/-- Everything a step of a consumer can do: nothing, or a step of its command's micro-program, whose
effect on what the agents share is known. -/
theorem consumerStep_effect (k : Nat) (s : State) :
    consumerStep k s = s ∨
      (∃ r i u tmp ch, s.flight k = some r ∧ commandOf r = some i ∧ s.present i.chipField = true ∧
        Effect (.consumer k) True (s.chip i.chipField) ch
          (commandStanding (s.irqMode i.chipField) i r.upc.toNat r.tmp)
          (commandStanding (s.irqMode i.chipField) i (BitVec.ofNat 6 u).toNat tmp) ∧
        consumerStep k s =
          (s.setChip i.chipField ch).setFlight k ⟨r.word, BitVec.ofNat 6 u, tmp⟩) ∨
      (∃ r i st v ch, s.flight k = some r ∧ commandOf r = some i ∧ s.present i.chipField = true ∧
        Effect (.consumer k) True (s.chip i.chipField) ch
          (commandStanding (s.irqMode i.chipField) i r.upc.toNat r.tmp) .idle ∧
        consumerStep k s = ((s.setChip i.chipField ch).endFlight k).deliver k st v) := by
  rcases consumerStep_cases k s with ⟨-, hs⟩ | ⟨r, i, u, tmp, ch, hr, hi, hp, hm, hs⟩ |
    ⟨r, i, st, v, ch, hr, hi, hp, hm, hs⟩
  · exact .inl hs
  · have he := effects_programOf k (s.irqMode i.chipField) (s.chip i.chipField) r.upc.toNat r.tmp i
    rw [StepEffects, hm] at he
    refine .inr (.inl ⟨r, i, u, tmp, ch, hr, hi, hp, ?_, hs⟩)
    rwa [upc_toNat_of_stepOf (programOf_goto_stepOf hm)]
  · have he := effects_programOf k (s.irqMode i.chipField) (s.chip i.chipField) r.upc.toNat r.tmp i
    rw [StepEffects, hm] at he
    exact .inr (.inr ⟨r, i, st, v, ch, hr, hi, hp, he, hs⟩)

/-- Everything a step of the sequencer can do: nothing, or a step of its micro-program, whose effect is
known. -/
theorem issStep_effect (c : Nat) (s : State) :
    issStep c s = s ∨
      ∃ u tmp ch, s.irqMode c = true ∧
        IssEffect (s.chip c).iss.upc.toNat (s.chip c).iss.tmp (s.chip c) (BitVec.ofNat 6 u).toNat tmp
          ch ∧
        issStep c s = s.setChip c { ch with iss := ⟨BitVec.ofNat 6 u, tmp⟩ } := by
  rcases issStep_cases c s with hs | ⟨u, tmp, ch, hi, hm, hs⟩
  · exact .inl hs
  · have he := effects_progIss c (s.chip c).iss.upc.toNat (s.chip c).iss.tmp (s.chip c)
    have hu := meets_progIss chipInvariant_true c (s.chip c).iss.upc.toNat (s.chip c).iss.tmp
      (ch := s.chip c) trivial
    rw [hm] at he hu
    refine .inr ⟨u, tmp, ch, hi, ?_, hs⟩
    rwa [upc_toNat (u := u) (by have := hu.1; unfold longestProgram; omega)]

theorem present_of_irqMode {s : State} {c : Nat} (h : s.irqMode c = true) : s.present c = true :=
  (Bool.and_eq_true_iff.mp h).1

/-! ### The queue's events -/

theorem issResultInRange_iff (x : Iss) : IssResultInRange x ↔ ResultAt x.upc.toNat x.tmp.r := by
  have h : ∀ n : BitVec 6, x.upc = n ↔ x.upc.toNat = n.toNat := fun n => BitVec.toNat_inj.symm
  simp only [IssResultInRange, h]
  exact Iff.rfl

theorem eventsInRange_iff (ch : Chip) :
    EventsInRange ch ↔ QueueOk ch ∧ ResultAt ch.iss.upc.toNat ch.iss.tmp.r := by
  rw [← issResultInRange_iff]
  unfold EventsInRange QueueOk
  tauto

/-- Only the queue and the sequencer's record matter. -/
theorem eventsInRange_of_same {a b : Chip} (h : SameShared a b) (hb : EventsInRange b) :
    EventsInRange a := by
  rw [eventsInRange_iff] at hb ⊢
  exact ⟨queueOk_of_eq hb.1 h.buf h.qin h.qout h.qcnt, h.iss ▸ hb.2⟩

theorem eventsInRange_of_effect {me : Holder} {ch ch' : Chip} {st st' : Standing}
    (h : Effect me True ch ch' st st') (hch : EventsInRange ch) : EventsInRange ch' := by
  rw [eventsInRange_iff] at hch ⊢
  exact ⟨h.events trivial hch.1, h.iss ▸ hch.2⟩

theorem eventsInRange_resetWith (ext : Vector Byte 6) (n : Nat) :
    EventsInRange (Chip.resetWith ext n) :=
  (eventsInRange_iff _).mpr ⟨queueOk_resetWith ext n, resultAt_of_early _ (Nat.zero_le 7)⟩

theorem atomicInvariant_eventsInRange : AtomicInvariant (EveryChip EventsInRange) where
  free _ _ _ _ h := h
  answer _ _ _ h := h
  issue _ _ _ h _ _ := h
  consumer s k h := by
    rcases consumerStep_effect k s with hs | ⟨r, i, u, tmp, ch, -, -, hp, he, hs⟩ |
      ⟨r, i, st, v, ch, -, -, hp, he, hs⟩ <;> rw [hs]
    · exact h
    · exact everyChip_setChip _ h (eventsInRange_of_effect he (h _ (present_mem hp)))
    · exact everyChip_setChip _ h (eventsInRange_of_effect he (h _ (present_mem hp)))
  iss s c h := by
    rcases issStep_effect c s with hs | ⟨u, tmp, ch, hi, ⟨he, hres⟩, hs⟩ <;> rw [hs]
    · exact h
    · obtain ⟨hq, hr⟩ := (eventsInRange_iff _).mp (h c (present_mem (present_of_irqMode hi)))
      exact everyChip_setChip _ h ((eventsInRange_iff _).mpr ⟨he.events hr hq, hres hr⟩)
  envSet s c p v h hp _ :=
    everyChip_setChip _ h (eventsInRange_of_same (sameShared_extWrite p v _) (h c (present_mem hp)))
  envWake s c h hp :=
    everyChip_setChip _ h (eventsInRange_of_same (sameShared_wake _) (h c (present_mem hp)))
  reset s _ _ := everyChip_reset s eventsInRange_resetWith

/-- Settles O47: a consumer only pops, and the sequencer pushes a result that its micro-program keeps in
1..24 from the scan to the push. -/
theorem stepKeepsEvents : Obligations.StepKeepsEvents :=
  step_keeps_atomicInvariant atomicInvariant_eventsInRange

/-! ### Where every agent stands -/

/-- Where an agent stands on chip `c`: outside everything unless it has a command in flight there, or is
the sequencer of an IRQ-driven chip. -/
def agentStanding (s : State) (c : Nat) : Holder → Standing
  | .consumer k =>
    match (s.flight k).bind fun r => (commandOf r).map fun i => (r, i) with
    | some (r, i) =>
      if i.chipField = c then commandStanding (s.irqMode c) i r.upc.toNat r.tmp else .idle
    | none => .idle
  | .iss => if s.irqMode c then issStanding (s.chip c).iss.upc.toNat else .idle

theorem agentStanding_consumer {s : State} {k : Nat} {r : InFlight} {i : Instr} (c : Nat)
    (hr : s.flight k = some r) (hi : commandOf r = some i) :
    agentStanding s c (.consumer k) =
      if i.chipField = c then commandStanding (s.irqMode c) i r.upc.toNat r.tmp else .idle := by
  simp [agentStanding, hr, hi]

theorem agentStanding_of_flight_none {s : State} {k : Nat} (c : Nat) (h : s.flight k = none) :
    agentStanding s c (.consumer k) = .idle := by
  simp [agentStanding, h]

/-- A consumer's standing depends on the configuration and on its record. -/
theorem agentStanding_consumer_congr {s t : State} {k : Nat} (c : Nat) (hcfg : t.cfg = s.cfg)
    (hfl : t.flight k = s.flight k) :
    agentStanding t c (.consumer k) = agentStanding s c (.consumer k) := by
  simp only [agentStanding, State.irqMode, hcfg, hfl]

/-- The sequencer's standing depends on the configuration and on its record. -/
theorem agentStanding_iss_congr {s t : State} {c : Nat} (hcfg : t.cfg = s.cfg)
    (hiss : (t.chip c).iss = (s.chip c).iss) : agentStanding t c .iss = agentStanding s c .iss := by
  rw [agentStanding, agentStanding, State.irqMode, State.irqMode, hcfg, hiss]

/-- A new command stands outside everything (R50). -/
theorem commandStanding_first (m : Bool) (i : Instr) (tmp : Temps) :
    commandStanding m i 1 tmp = .idle := by
  cases i <;> cases m <;> rfl

/-- Some part `T` of a consumer's standing holds exactly where it has a command in flight on the chip
that stands so. -/
theorem agentStanding_consumer_iff {T : Standing → Bool} (hT : T .idle = false) (s : State)
    (c k : Nat) :
    T (agentStanding s c (.consumer k)) = true ↔
      ∃ r i, s.flight k = some r ∧ commandOf r = some i ∧ i.chipField = c ∧
        T (commandStanding (s.irqMode c) i r.upc.toNat r.tmp) = true := by
  constructor
  · intro h
    cases hr : s.flight k with
    | none => simp [agentStanding_of_flight_none c hr, hT] at h
    | some r =>
      cases hi : commandOf r with
      | none => simp [agentStanding, hr, hi, hT] at h
      | some i =>
        rw [agentStanding_consumer c hr hi] at h
        split at h
        · exact ⟨r, i, rfl, hi, ‹_›, h⟩
        · simp [hT] at h
  · rintro ⟨r, i, hr, hi, hc, h⟩
    rwa [agentStanding_consumer c hr hi, if_pos hc]

theorem agentStanding_iss_iff {T : Standing → Bool} (hT : T .idle = false) (s : State) (c : Nat) :
    T (agentStanding s c .iss) = true ↔
      s.irqMode c = true ∧ T (issStanding (s.chip c).iss.upc.toNat) = true := by
  rw [agentStanding]
  split <;> simp_all

/-! ### What agents have of a chip, and where they stand -/

/-- What an agent can have of a chip (`M`), which its steps take and give back as a part `T` of its
standing says. -/
structure Tracks (M : Chip → Holder → Prop) (T : Standing → Bool) : Prop where
  idle : T .idle = false
  effect : ∀ me ok ch ch' st st', Effect me ok ch ch' st st' → (M ch me ↔ T st = true) →
    (M ch' me ↔ T st' = true) ∧ ∀ h, h ≠ me → (M ch' h ↔ M ch h)
  same : ∀ ch ch' h, SameShared ch' ch → (M ch' h ↔ M ch h)
  iss : ∀ ch x h, M { ch with iss := x } h ↔ M ch h
  reset : ∀ ext n h, ¬M (Chip.resetWith ext n) h

/-- On every present chip the agents that have it are exactly those that stand so. -/
def Exact (M : Chip → Holder → Prop) (T : Standing → Bool) (s : State) : Prop :=
  ∀ c, s.present c = true → ∀ h, M (s.chip c) h ↔ T (agentStanding s c h) = true

section
variable {M : Chip → Holder → Prop} {T : Standing → Bool}

/-- Exactness, said of the records in flight and of the sequencers. -/
theorem exact_iff (hT : T .idle = false) (s : State) :
    Exact M T s ↔ ∀ c, s.present c = true →
      (∀ k, M (s.chip c) (.consumer k) ↔
        ∃ r i, s.flight k = some r ∧ commandOf r = some i ∧ i.chipField = c ∧
          T (commandStanding (s.irqMode c) i r.upc.toNat r.tmp) = true) ∧
      (M (s.chip c) .iss ↔
        s.irqMode c = true ∧ T (issStanding (s.chip c).iss.upc.toNat) = true) := by
  simp only [← agentStanding_consumer_iff hT, ← agentStanding_iss_iff hT]
  refine ⟨fun h c hp => ⟨fun k => h c hp _, h c hp _⟩, fun h c hp a => ?_⟩
  cases a with
  | consumer k => exact (h c hp).1 k
  | iss => exact (h c hp).2

/-- A change that no agent's part of a chip and no agent's standing shows keeps exactness. -/
theorem exact_of_same {s t : State} (h : Exact M T s) (hcfg : t.cfg = s.cfg)
    (hchip : ∀ c a, s.present c = true → (M (t.chip c) a ↔ M (s.chip c) a))
    (hst : ∀ c a, agentStanding t c a = agentStanding s c a) : Exact M T t := by
  intro c hp a
  have hp : s.present c = true := by rwa [State.present, hcfg] at hp
  rw [hchip c a hp, hst]
  exact h c hp a

variable (hM : Tracks M T)
include hM

/-- A step of the agent `me` on chip `c`, which leaves the other chips and the other agents' standing. -/
theorem exact_of_effect {s t : State} {me : Holder} {ok : Prop} {c : Nat} {ch : Chip}
    (h : Exact M T s) (hp : s.present c = true) (hcfg : t.cfg = s.cfg)
    (hch : ∀ a, M (t.chip c) a ↔ M ch a) (hchip : ∀ d, d ≠ c → t.chip d = s.chip d)
    (hst : ∀ d a, d ≠ c ∨ a ≠ me → agentStanding t d a = agentStanding s d a)
    (he : Effect me ok (s.chip c) ch (agentStanding s c me) (agentStanding t c me)) :
    Exact M T t := by
  obtain ⟨hme, hothers⟩ := hM.effect _ _ _ _ _ _ he (h c hp me)
  intro d hd a
  by_cases hdc : d = c
  · subst hdc
    rw [hch]
    by_cases ha : a = me
    · rw [ha]; exact hme
    · rw [hothers a ha, hst d a (.inr ha)]
      exact h d hp a
  · rw [hchip d hdc, hst d a (.inl hdc)]
    exact h d (by rwa [State.present, hcfg] at hd) a

/-- A step of a consumer on the chip of its command, after which its record is of the same command or
gone. -/
theorem exact_of_consumer {s t : State} {k : Nat} {r : InFlight} {i : Instr} {ch : Chip}
    (h : Exact M T s) (hr : s.flight k = some r) (hi : commandOf r = some i)
    (hp : s.present i.chipField = true) (hcfg : t.cfg = s.cfg)
    (hch : t.chips = (s.setChip i.chipField ch).chips)
    (hfl : ∀ j, j ≠ k → t.flight j = s.flight j)
    (hidle : ∀ d, d ≠ i.chipField → agentStanding t d (.consumer k) = .idle)
    (he : Effect (.consumer k) True (s.chip i.chipField) ch
      (commandStanding (s.irqMode i.chipField) i r.upc.toNat r.tmp)
      (agentStanding t i.chipField (.consumer k))) : Exact M T t := by
  have hchip : ∀ d, t.chip d = (s.setChip i.chipField ch).chip d := fun d => by
    rw [State.chip, State.chip, hch]
  have hsame : t.chip i.chipField = ch := by rw [hchip, chip_setChip_present s _ ch hp]
  have hother : ∀ d, d ≠ i.chipField → t.chip d = s.chip d := fun d hd => by
    rw [hchip, chip_setChip_ne _ _ _ _ hd.symm]
  refine exact_of_effect hM (me := .consumer k) (ok := True) h hp hcfg (fun a => by rw [hsame]) hother
    ?_ ?_
  · intro d a hda
    cases a with
    | consumer j =>
      by_cases hj : j = k
      · subst hj
        have hd : d ≠ i.chipField := hda.resolve_right (by simp)
        rw [hidle d hd, agentStanding_consumer d hr hi, if_neg hd.symm]
      · exact agentStanding_consumer_congr d hcfg (hfl j hj)
    | iss =>
      refine agentStanding_iss_congr hcfg ?_
      by_cases hd : d = i.chipField
      · rw [hd, hsame, he.iss]
      · rw [hother d hd]
  · rwa [agentStanding_consumer _ hr hi, if_pos rfl]

/-- A change of one chip that no agent has part in. -/
theorem exact_setChip {s : State} (c : Nat) {ch : Chip} (h : Exact M T s) (hp : s.present c = true)
    (hch : SameShared ch (s.chip c)) : Exact M T (s.setChip c ch) := by
  have hchip : ∀ d, SameShared ((s.setChip c ch).chip d) (s.chip d) := fun d => by
    by_cases hd : c = d
    · subst hd; rwa [chip_setChip_present s c ch hp]
    · rw [chip_setChip_ne s c d ch hd]; exact .rfl
  refine exact_of_same h rfl (fun d a _ => hM.same _ _ a (hchip d)) fun d a => ?_
  cases a with
  | consumer k => rfl
  | iss => exact agentStanding_iss_congr rfl (hchip d).iss

/-- With nothing in flight and every present chip just reset, no agent has anything of a chip. -/
theorem exact_of_reset {s : State} (hfl : ∀ k, s.flight k = none)
    (hchip : ∀ c, s.present c = true → ∃ ext n, s.chip c = Chip.resetWith ext n) : Exact M T s := by
  intro c hp a
  obtain ⟨ext, n, hch⟩ := hchip c hp
  have hst : agentStanding s c a = .idle := by
    cases a with
    | consumer k => exact agentStanding_of_flight_none c (hfl k)
    | iss =>
      rw [agentStanding, hch]
      split <;> rfl
  rw [hst, hM.idle, hch]
  exact iff_of_false (hM.reset ext n a) nofun

theorem atomicInvariant_exact : AtomicInvariant (Exact M T) where
  free _ _ _ _ h := h
  answer _ _ _ h := h
  issue s k i h hb hi := by
    refine exact_of_same h rfl (fun _ _ _ => Iff.rfl) fun c a => ?_
    cases a with
    | iss => rfl
    | consumer j =>
      by_cases hj : j = k
      · subst hj
        have hnone : s.flight j = none := by simpa [State.busy] using hb
        rw [agentStanding_of_flight_none c hnone,
          agentStanding_consumer c (setFlight_flight_same s j _) (commandOf_encode i s _ _ hi)]
        split
        · exact commandStanding_first _ i _
        · rfl
      · exact agentStanding_consumer_congr c rfl (setFlight_flight_ne s k j _ (Ne.symm hj))
  consumer s k h := by
    rcases consumerStep_effect k s with hs | ⟨r, i, u, tmp, ch, hr, hi, hp, he, hs⟩ |
      ⟨r, i, st, v, ch, hr, hi, hp, he, hs⟩ <;> rw [hs]
    · exact h
    · have hst := fun d => agentStanding_consumer
        (s := (s.setChip i.chipField ch).setFlight k ⟨r.word, BitVec.ofNat 6 u, tmp⟩) d
        (setFlight_flight_same _ k _) hi
      refine exact_of_consumer hM h hr hi hp rfl rfl
        (fun j hj => setFlight_flight_ne _ k j _ (Ne.symm hj)) (fun d hd => ?_) ?_
      · rw [hst, if_neg hd.symm]
      · rw [hst, if_pos rfl]; exact he
    · have hst := fun d => agentStanding_of_flight_none
        (s := ((s.setChip i.chipField ch).endFlight k).deliver k st v) d
        (endFlight_flight_same _ k)
      refine exact_of_consumer hM h hr hi hp rfl rfl
        (fun j hj => endFlight_flight_ne _ k j (Ne.symm hj)) (fun d _ => hst d) ?_
      rw [hst]; exact he
  iss s c h := by
    rcases issStep_effect c s with hs | ⟨u, tmp, ch, hi, ⟨he, -⟩, hs⟩ <;> rw [hs]
    · exact h
    · have hp := present_of_irqMode hi
      have hchip := chip_setChip_present s c { ch with iss := ⟨BitVec.ofNat 6 u, tmp⟩ } hp
      refine exact_of_effect hM (ch := ch) h hp rfl (fun a => ?_)
        (fun d hd => chip_setChip_ne s c d _ hd.symm) (fun d a hda => ?_) (me := .iss)
        (ok := ResultAt (s.chip c).iss.upc.toNat (s.chip c).iss.tmp.r) ?_
      · rw [hchip]
        exact hM.iss ch _ a
      · cases a with
        | consumer k => rfl
        | iss =>
          have hd : d ≠ c := hda.resolve_right (by simp)
          exact agentStanding_iss_congr rfl (by rw [chip_setChip_ne s c d _ hd.symm])
      · rw [agentStanding, agentStanding, setChip_irqMode, if_pos hi, if_pos hi, hchip]
        exact he
  envSet s c p v h hp _ := exact_setChip hM c h hp (sameShared_extWrite p v _)
  envWake s c h hp := exact_setChip hM c h hp (sameShared_wake _)
  reset s _ hq := by
    have hin : s.inflight = [] := List.isEmpty_iff.mp (Bool.and_eq_true_iff.mp hq).1
    exact exact_of_reset hM (fun k => by rw [State.flight, hin]; rfl)
      fun c hp => everyChip_reset (C := fun ch => ∃ ext n, ch = Chip.resetWith ext n) s
        (fun ext n => ⟨ext, n, rfl⟩) c (present_mem hp)

end

/-! ### Locks -/

theorem LockMove.tracks {me : Holder} {l l' : Option Holder} {held held' : Bool}
    (h : LockMove me l l' held held') (hme : l = some me ↔ held = true) :
    (l' = some me ↔ held' = true) ∧ ∀ a, a ≠ me → (l' = some a ↔ l = some a) := by
  cases h with
  | keep => exact ⟨hme, fun _ _ => Iff.rfl⟩
  | acquire => simp [eq_comm]
  | release => simp [eq_comm]

theorem tracks_wlock : Tracks (fun ch a => ch.wlock = some a) Standing.window where
  idle := rfl
  effect _ _ _ _ _ _ he hme := he.window.tracks hme
  same ch ch' a h := by rw [h.wlock]
  iss _ _ _ := Iff.rfl
  reset _ _ _ := nofun

theorem tracks_qlock : Tracks (fun ch a => ch.qlock = some a) Standing.queue where
  idle := rfl
  effect _ _ _ _ _ _ he hme := he.queue.tracks hme
  same ch ch' a h := by rw [h.qlock]
  iss _ _ _ := Iff.rfl
  reset _ _ _ := nofun

/-- The lock discipline is exactness of both locks. -/
theorem locksHeld_iff (s : State) :
    LocksHeld s ↔ Exact (fun ch a => ch.wlock = some a) Standing.window s ∧
      Exact (fun ch a => ch.qlock = some a) Standing.queue s := by
  rw [exact_iff rfl, exact_iff rfl]
  constructor
  · exact fun h => ⟨fun c hp => ⟨(h c hp).windowConsumer, (h c hp).windowIss⟩,
      fun c hp => ⟨(h c hp).queueConsumer, (h c hp).queueIss⟩⟩
  · exact fun ⟨hw, hq⟩ c hp => ⟨(hw c hp).1, (hw c hp).2, (hq c hp).1, (hq c hp).2⟩

/-- Settles O48: an agent's own step alone moves a lock to it or from it, and moves its standing with
it. -/
theorem stepKeepsLockDiscipline : Obligations.StepKeepsLockDiscipline := by
  intro s t h hst
  obtain ⟨hw, hq⟩ := (locksHeld_iff s).mp h
  exact (locksHeld_iff t).mpr
    ⟨step_keeps_atomicInvariant (atomicInvariant_exact tracks_wlock) s t hw hst,
      step_keeps_atomicInvariant (atomicInvariant_exact tracks_qlock) s t hq hst⟩

/-! ### Waiter sets -/

/-- The agent is a consumer of the set. -/
def InSet (l : List Nat) : Holder → Prop
  | .consumer k => k ∈ l
  | .iss => False

theorem inSet_idsInsert (k : Nat) (l : List Nat) (a : Holder) :
    InSet (idsInsert k l) a ↔ a = .consumer k ∨ InSet l a := by
  cases a <;> simp [InSet]

theorem inSet_idsRemove (k : Nat) (l : List Nat) (a : Holder) :
    InSet (idsRemove k l) a ↔ InSet l a ∧ a ≠ .consumer k := by
  cases a <;> simp [InSet]

theorem SetMove.tracks {me : Holder} {l l' : List Nat} {waits waits' : Bool}
    (h : SetMove me l l' waits waits') (hme : InSet l me ↔ waits = true) :
    (InSet l' me ↔ waits' = true) ∧ ∀ a, a ≠ me → (InSet l' a ↔ InSet l a) := by
  cases h with
  | keep => exact ⟨hme, fun _ _ => Iff.rfl⟩
  | join k _ _ hk =>
    simp only [inSet_idsInsert, ← hk]
    exact ⟨by simp, fun a ha => or_iff_right ha⟩
  | leave k _ _ hk =>
    simp only [inSet_idsRemove, ← hk]
    exact ⟨by simp, fun a ha => and_iff_left ha⟩

theorem tracks_waiters : Tracks (fun ch => InSet ch.waiters) Standing.waiting where
  idle := rfl
  effect _ _ _ _ _ _ he hme := he.waiters.tracks hme
  same ch ch' a h := by rw [h.waiters]
  iss _ _ _ := Iff.rfl
  reset _ _ a := by cases a <;> exact nofun

/-- `standsWaiting` is `waitsAt` of a WAIT_INT. -/
theorem standsWaiting_eq (m : Bool) (c : Nat) (r : InFlight) :
    standsWaiting m r = waitsAt m (.waitInt c) r.upc.toNat r.tmp.r := by
  have h : ∀ n : BitVec 6, (r.upc == n) = (r.upc.toNat == n.toNat) := fun n => by
    rw [Bool.eq_iff_iff, beq_iff_eq, beq_iff_eq, BitVec.toNat_inj]
  unfold standsWaiting waitsAt
  simp only [h]
  rfl

/-- Only a WAIT_INT's consumer waits. -/
theorem waitsAt_eq_true {m : Bool} {i : Instr} {u : Nat} {r : EventNo} (h : waitsAt m i u r = true) :
    i = .waitInt i.chipField := by
  unfold waitsAt at h
  split at h
  · rfl
  · simp at h

theorem waitersExact_iff (s : State) :
    WaitersExact s ↔ Exact (fun ch => InSet ch.waiters) Standing.waiting s := by
  have hiss : ∀ (c u : Nat), InSet (s.chip c).waiters .iss ↔
      s.irqMode c = true ∧ (issStanding u).waiting = true := fun c u => iff_of_false id nofun
  rw [exact_iff rfl]
  refine forall_congr' fun c => forall_congr' fun _ => ?_
  rw [and_iff_left (hiss c _)]
  refine forall_congr' fun k => iff_congr Iff.rfl ⟨?_, ?_⟩
  · rintro ⟨r, hr, hi, hw⟩
    exact ⟨r, _, hr, hi, rfl, (standsWaiting_eq (s.irqMode c) c r).symm.trans hw⟩
  · rintro ⟨r, i, hr, hi, rfl, hw⟩
    have hwait := waitsAt_eq_true hw
    exact ⟨r, hr, hwait ▸ hi, (standsWaiting_eq _ i.chipField r).trans (hwait ▸ hw)⟩

/-- Settles O49: a consumer joins and leaves `WAITERS` by its own steps alone, and its standing moves
with it. -/
theorem stepKeepsWaiters : Obligations.StepKeepsWaiters := by
  intro s t h hst
  exact (waitersExact_iff t).mpr (step_keeps_atomicInvariant (atomicInvariant_exact tracks_waiters) s t
    ((waitersExact_iff s).mp h) hst)

end Sys2Proof.Proofs
end

section
/-! ## Issue, and the frame of a command (R20, R50, R74, R101, R252, R253, R255) -/

namespace Sys2Proof.Proofs

open Sys2Proof.Machine Sys2Proof.Laws Sys2Proof.Safety

/-! ### A word that decodes is the word of its command -/

/-- A word whose reserved bits are zero is the sum of its fields (R90, R92). -/
theorem toNat_of_fields (w : CmdWord) (h : reservedZero w = true) :
    w.toNat = opcodeOf w * 0x100000 + chipOf w * 0x10000 + indexOf w * 0x100 + (dataOf w).toNat := by
  simp only [reservedZero, Bool.and_eq_true, beq_iff_eq, ← BitVec.toNat_inj,
    BitVec.extractLsb'_toNat, Nat.shiftRight_eq_div_pow, BitVec.ofNat_eq_ofNat, BitVec.toNat_ofNat] at h
  simp only [opcodeOf, chipOf, indexOf, dataOf, BitVec.extractLsb'_toNat, Nat.shiftRight_eq_div_pow]
  have hw := w.isLt
  omega

theorem formatIndexData_ok {w : CmdWord} {mk : Nat → Nat → Byte → Instr} {i : Instr}
    (h : formatIndexData w mk = .ok i) :
    reservedZero w = true ∧ i = mk (chipOf w) (indexOf w) (dataOf w) := by
  unfold formatIndexData at h
  split at h
  · cases h; exact ⟨‹_›, rfl⟩
  · cases h

theorem formatIndex_ok {w : CmdWord} {mk : Nat → Nat → Instr} {i : Instr}
    (h : formatIndex w mk = .ok i) :
    reservedZero w = true ∧ dataOf w = 0 ∧ i = mk (chipOf w) (indexOf w) := by
  unfold formatIndex at h
  split at h
  · split at h
    · cases h; exact ⟨‹_›, ‹_›, rfl⟩
    · cases h
  · cases h

theorem formatChip_ok {w : CmdWord} {mk : Nat → Instr} {i : Instr} (h : formatChip w mk = .ok i) :
    reservedZero w = true ∧ (indexOf w = 0 ∧ dataOf w = 0) ∧ i = mk (chipOf w) := by
  unfold formatChip at h
  split at h
  · split at h
    · cases h; exact ⟨‹_›, ‹_›, rfl⟩
    · cases h
  · cases h

/-- The fields of a word that decodes are the opcode and the operands of its command (R91, R92, R99). -/
theorem fields_of_decode {w : CmdWord} {i : Instr} (h : decode w = .ok i) :
    reservedZero w = true ∧ opcodeOf w = opcode i ∧ chipOf w = i.chipField ∧
      indexOf w = i.indexField ∧ dataOf w = i.dataField := by
  unfold decode at h
  split at h <;> rename_i hop
  case h_2 | h_4 | h_7 =>
    obtain ⟨hr, rfl⟩ := formatIndexData_ok h
    exact ⟨hr, hop, rfl, rfl, rfl⟩
  case h_10 | h_11 =>
    obtain ⟨hr, ⟨hx, hv⟩, rfl⟩ := formatChip_ok h
    exact ⟨hr, hop, rfl, hx, hv⟩
  case h_15 => cases h
  all_goals
    obtain ⟨hr, hv, rfl⟩ := formatIndex_ok h
    exact ⟨hr, hop, rfl, rfl, hv⟩

theorem encode_of_decode {w : CmdWord} {i : Instr} (h : decode w = .ok i) : encode i = w := by
  obtain ⟨hr, hop, hc, hx, hv⟩ := fields_of_decode h
  rw [encode, ← hop, ← hc, ← hx, ← hv, ← toNat_of_fields w hr, BitVec.ofNat_toNat, BitVec.setWidth_eq]

/-! ### The issue step -/

theorem issueOnly_busy {k : Nat} {i : Instr} {s : State} (hb : s.busy k = true) :
    issueOnly k i s = .refused .consumerBusy := by
  simp [issueOnly, issueThen, hb]

theorem issueOnly_fault {k : Nat} {i : Instr} {s : State} {st : Status} (hb : s.busy k = false)
    (hi : issueFault i s = some st) : issueOnly k i s = .next (s.deliver k st 0) := by
  simp [issueOnly, issueThen, hb, hi, raiseFault]

theorem issueFault_absent {i : Instr} {s : State} (hp : s.present i.chipField = false) :
    issueFault i s = some .unavailable := by
  simp [issueFault, hp]

theorem issueFault_index {i : Instr} {s : State} (hp : s.present i.chipField = true)
    (hx : indexOk i = false) : issueFault i s = some .indexFault := by
  simp [issueFault, hp, hx]

/-- Settles O10: the issue move is `issueOnly` of the decoded command, whose word is the word
presented. -/
theorem issueCreatesRecord : Obligations.IssueCreatesRecord := by
  intro s k w i rest hl ha hw
  have hstep : step s = issueOnly k i { s with agenda := rest } := by
    rw [step_planned hl ha, fire, hw]
  rw [hstep]
  refine ⟨fun hb hp hx => ⟨{}, ?_⟩, fun hb hp => ?_, fun hb hp hx => ?_, fun hb => ?_⟩
  · have hi : issueFault i { s with agenda := rest } = none := (issueFault_none i _).mpr ⟨hp, hx⟩
    rw [issueOnly_accepted (s := { s with agenda := rest }) hb hi, encode_of_decode hw]
  · exact issueOnly_fault (s := { s with agenda := rest }) hb (issueFault_absent hp)
  · exact issueOnly_fault (s := { s with agenda := rest }) hb (issueFault_index hp hx)
  · exact issueOnly_busy (s := { s with agenda := rest }) hb

/-! ### The frame of a command -/

/-- Settles O55: a command is turned away, answered with a fault, or settles on its own chip and in its
own consumer's record. -/
theorem commandsStayOnTheirChip : Obligations.CommandsStayOnTheirChip := by
  intro s t i h
  rcases exec_cases i s with ⟨-, he⟩ | ⟨-, st, -, he⟩ | ⟨-, -, he⟩ <;> rw [he] at h <;> cases h
  · exact ⟨fun _ _ => rfl, fun _ _ => rfl, rfl, rfl, rfl, rfl, .inr ⟨_, rfl, rfl⟩⟩
  · cases runProgram (programOf s.cur (s.irqMode i.chipField) i) longestProgram 1 {}
      (s.chip i.chipField) with
    | waiting u tmp ch =>
      exact ⟨fun c hc => chip_setChip_ne s _ c ch hc.symm,
        fun k hk => setFlight_flight_ne _ _ k _ hk.symm, rfl, rfl, rfl, rfl, .inl rfl⟩
    | answered st v ch =>
      exact ⟨fun c hc => chip_setChip_ne s _ c ch hc.symm,
        fun k hk => endFlight_flight_ne _ _ k hk.symm, rfl, rfl, rfl, rfl, .inr ⟨_, rfl, rfl⟩⟩

end Sys2Proof.Proofs
end

section
/-! ## The sequencer at rest, and reset (R51, R56, R214, R263, R294) -/

namespace Sys2Proof.Proofs

open Sys2Proof.Machine Sys2Proof.Laws Sys2Proof.Safety

/-- The request line is low exactly where no latch is set (R33, R34). -/
theorem irq_eq_false_iff (ch : Chip) : irq ch = false ↔ NothingLatched ch := by
  rw [irq, bne_eq_false_iff_eq, pend_eq_zero]
  refine ⟨fun ⟨h0, h1, h2⟩ i hi => ?_, fun h => ⟨h 0 (by decide), h 1 (by decide), h 2 (by decide)⟩⟩
  match i, hi with
  | 0, _ => exact h0
  | 1, _ => exact h1
  | 2, _ => exact h2

/-- From idle the sequencer has no step while nothing requests it or another agent holds the window. -/
theorem progIss_idle_wait (c : Nat) (tmp : Temps) {ch : Chip}
    (h : NothingLatched ch ∨ ch.wlock ≠ none) : progIss c 0 tmp ch = .wait := by
  rcases h with h | h
  · simp [progIss, (irq_eq_false_iff ch).mpr h]
  · simp [progIss, acquireW, h]

/-- Settles O42: the sequencer has no micro-program on a polled chip, and from idle its first step is the
acquisition, enabled by a request and a free window (R263). -/
theorem issTakesNoStepUnrequested : Obligations.IssTakesNoStepUnrequested := by
  intro s c
  refine ⟨fun hm => by simp [issStep, issMicro, hm], fun hu h => ?_⟩
  have hwait : issMicro c s = .wait := by
    unfold issMicro
    split
    · rw [hu]
      exact progIss_idle_wait c _ h
    · rfl
  rw [issStep, hwait]

@[simp] theorem bankRead_replicate {α : Type} (n i : Nat) (d : α) :
    bankRead (Vector.replicate n d) i d = d := by
  by_cases h : i < n
  · simp [bankRead, h]
  · exact bankRead_outside _ i d (Nat.le_of_not_lt h)

/-- Settles O43: every slot's chip after reset is `Chip.resetWith` of its external levels. -/
theorem resetLeavesResetState : Obligations.ResetLeavesResetState := by
  intro cfg ext c
  dsimp only
  rw [resetFrom_chip]
  refine ⟨rfl, rfl, fun p => ?_, fun i => ?_, rfl, rfl, rfl, rfl, rfl, rfl, rfl, rfl, rfl, rfl,
    fun h hc => ?_⟩
  · exact ⟨bankRead_replicate 6 p 0, bankRead_replicate 6 p 0⟩
  · exact ⟨bankRead_replicate 3 i 0, bankRead_replicate 3 i 0, bankRead_replicate 3 i 0⟩
  · have hix : slotIx c = c - 1 := by
      rw [slotIx, if_neg fun h0 => by subst h0; revert hc; decide]
    simp [Chip.resetWith, hix, bankRead, h]

/-- Settles O52: a chip just reset has each chip's invariant, and with nothing in flight no agent has
anything of it. -/
theorem resetHasInvariants : Obligations.ResetHasInvariants := by
  intro cfg ext
  have hchip : ∀ {C : Chip → Prop}, (∀ e n, C (Chip.resetWith e n)) →
      ∀ c, C ((State.resetFrom cfg ext).chip c) := fun h c => resetFrom_chip cfg ext c ▸ h _ _
  have hexact : ∀ {M : Chip → Holder → Prop} {T : Standing → Bool}, Tracks M T →
      Exact M T (State.resetFrom cfg ext) := fun hM =>
    exact_of_reset hM (fun _ => rfl) fun c _ => ⟨_, _, resetFrom_chip cfg ext c⟩
  exact ⟨fun c _ => hchip chipInvariant_imageMatches.reset c,
    fun c _ => hchip chipInvariant_latchesEnabled.reset c,
    fun c _ => hchip eventsInRange_resetWith c,
    (locksHeld_iff _).mpr ⟨hexact tracks_wlock, hexact tracks_qlock⟩,
    (waitersExact_iff _).mpr (hexact tracks_waiters),
    fun c _ => hchip chipInvariant_bufferCanonical.reset c,
    fun c _ => hchip chipInvariant_waitersCanonical.reset c,
    ⟨.nil, nofun⟩, fun c => hchip (C := fun ch => ch.qcnt = 0) (fun _ _ => rfl) c⟩

end Sys2Proof.Proofs
end

section
/-! ## Running a micro-program step by step -/

namespace Sys2Proof.Proofs

open Sys2Proof.Machine Sys2Proof.Laws Sys2Proof.Safety

/-- `n` steps of the micro-program, each taken and none answering, lead from one point to another. -/
inductive Reaches (p : Program) : Nat → Nat → Temps → Chip → Nat → Temps → Chip → Prop
  | refl (u : Nat) (tmp : Temps) (ch : Chip) : Reaches p 0 u tmp ch u tmp ch
  | step {n u u₁ u' : Nat} {tmp tmp₁ tmp' : Temps} {ch ch₁ ch' : Chip} :
    p u tmp ch = .goto u₁ tmp₁ ch₁ → Reaches p n u₁ tmp₁ ch₁ u' tmp' ch' →
      Reaches p (n + 1) u tmp ch u' tmp' ch'

section
variable {p : Program} {n n' u u' u'' : Nat} {tmp tmp' tmp'' : Temps} {ch ch' ch'' : Chip}

theorem Reaches.single (h : p u tmp ch = .goto u' tmp' ch') : Reaches p 1 u tmp ch u' tmp' ch' :=
  .step h (.refl _ _ _)

theorem Reaches.trans (h : Reaches p n u tmp ch u' tmp' ch')
    (h' : Reaches p n' u' tmp' ch' u'' tmp'' ch'') : Reaches p (n + n') u tmp ch u'' tmp'' ch'' := by
  induction h with
  | refl => rwa [Nat.zero_add]
  | @step m _ _ _ _ _ _ _ _ _ hg _ ih =>
    rw [Nat.add_right_comm]
    exact .step hg (ih h')

theorem runProgram_reaches (h : Reaches p n u tmp ch u' tmp' ch') (m : Nat) :
    runProgram p (n + m) u tmp ch = runProgram p m u' tmp' ch' := by
  induction h with
  | refl => rw [Nat.zero_add]
  | step hg _ ih => rw [Nat.add_right_comm, runProgram_goto _ _ _ _ _ _ _ _ hg, ih]

/-- A program that reaches a step that answers, run that long, answers. -/
theorem runProgram_reaches_respond {st : Status} {v : Byte} {f : Nat}
    (h : Reaches p n u tmp ch u' tmp' ch') (hn : n < f) (hr : p u' tmp' ch' = .respond st v ch'') :
    runProgram p f u tmp ch = .answered st v ch'' := by
  obtain ⟨m, rfl⟩ : ∃ m, f = n + (m + 1) := ⟨f - n - 1, by omega⟩
  rw [runProgram_reaches h, runProgram_respond _ _ _ _ _ _ _ _ hr]

/-- A program that reaches a step that is not enabled, run that long, waits there. -/
theorem runProgram_reaches_wait {f : Nat} (h : Reaches p n u tmp ch u' tmp' ch') (hn : n ≤ f)
    (hw : p u' tmp' ch' = .wait) : runProgram p f u tmp ch = .waiting u' tmp' ch' := by
  obtain ⟨m, rfl⟩ : ∃ m, f = n + m := ⟨f - n, by omega⟩
  rw [runProgram_reaches h, runProgram_wait _ _ _ _ _ hw]

end

/-! ### SELECT and the paged registers (R64, R123) -/

section
variable {p : Program} {n n' u : Nat} {tmp : Temps} {ch : Chip}

/-- The two steps of SELECT (R123). -/
theorem reaches_select {c : Nat} {pg : BitVec 2}
    (hr : p u tmp ch = selectRead c n tmp ch)
    (hw : ∀ t, p n { tmp with t := t } ch = selectWrite pg n' { tmp with t := t } ch) :
    ∃ t, Reaches p 2 u tmp ch n' { tmp with t := t } { ch with page := pg } := by
  refine ⟨ch.page ++ ch.lock, .step (hr.trans (selectRead_effect c n tmp ch)) (.single ?_)⟩
  exact (hw _).trans (selectWrite_effect ch.page pg ch.lock n' _ ch rfl)

/-- A bus read of an enable register (R64, R120). -/
theorem readTo_enab (c : Nat) {i : Nat} (n : Nat) (tmp : Temps) {ch : Chip} (hi : i ≤ 2)
    (h : ch.page = 2) :
    readTo c (8 + i) n tmp ch = .goto n { tmp with t := bankRead ch.enab i 0 } ch := by
  rw [readTo, ioRead_paged c i ch hi, afterRead_paged i ch hi (by rw [h]; decide)]
  simp [pagedRead, h]

/-- A bus write to an enable register stores the byte and clears the latches of the bits written 0
(R174). -/
theorem writeFrom_enab {i : Nat} (v : Byte) (n : Nat) (tmp : Temps) {ch : Chip} (hi : i ≤ 2)
    (h : ch.page = 2) :
    writeFrom (8 + i) v n tmp ch = .goto n tmp
      { ch with
        enab := bankWrite ch.enab i v
        intId := bankWrite ch.intId i (bankRead ch.intId i 0 &&& v) } := by
  rw [writeFrom, ioWrite_paged i v ch hi]
  simp [pagedWrite, h]

/-- A bus read of an interrupt-ID register (R64, R120). -/
theorem ioRead_intId (c : Nat) {i : Nat} {ch : Chip} (hi : i ≤ 2) (h : ch.page = 3) :
    ioRead c (8 + i) ch = bankRead ch.intId i 0 := by
  rw [ioRead_paged c i ch hi]
  simp [pagedRead, h]

theorem afterRead_intId {i : Nat} {ch : Chip} (hi : i ≤ 2) (h : ch.page = 3) :
    afterRead (8 + i) ch = ch := afterRead_paged i ch hi (by rw [h]; decide)

/-! ### CLEARPULSE (R180) -/

/-- The chip after CLEARPULSE of bit `b`: its latch cleared, its enable bit set, the idle page selected;
and every latch of a disabled bit of its port cleared too. -/
def pulsed (b : Nat) (ch : Chip) : Chip :=
  { ch with
    page := Config.idlePage
    enab := bankWrite ch.enab (portOf b) (bankRead ch.enab (portOf b) 0 ||| maskOf b)
    intId := bankWrite ch.intId (portOf b)
      (bankRead ch.intId (portOf b) 0 &&& (bankRead ch.enab (portOf b) 0 &&& ~~~maskOf b) &&&
        (bankRead ch.enab (portOf b) 0 ||| maskOf b)) }

theorem reaches_clearPulse {c b base : Nat} (hb : portOf b ≤ 2)
    (hp : ∀ d t ch', d < 7 → p (base + d) { tmp with t := t } ch' =
      clearPulse c b base (d + 1) { tmp with t := t } ch') :
    ∃ t, Reaches p 7 base tmp ch (base + 7) { tmp with t := t } (pulsed b ch) := by
  obtain ⟨t₁, hsel⟩ := reaches_select (p := p) (u := base) (tmp := tmp) (ch := ch) (pg := 2)
    (hp 0 tmp.t ch (by decide)) (fun t => hp 1 t ch (by decide))
  have hread := (hp 2 t₁ { ch with page := 2 } (by decide)).trans (readTo_enab c (base + 3) _ hb rfl)
  have hclear := (hp 3 (bankRead ch.enab (portOf b) 0) { ch with page := 2 } (by decide)).trans
    (writeFrom_enab _ (base + 4) _ hb rfl)
  have hset := fun ch' h => (hp 4 (bankRead ch.enab (portOf b) 0) ch' (by decide)).trans
    (writeFrom_enab _ (base + 5) _ hb h)
  obtain ⟨t₂, hidle⟩ := reaches_select (p := p) (pg := Config.idlePage)
    (hp 5 (bankRead ch.enab (portOf b) 0) _ (by decide)) (fun t => hp 6 t _ (by decide))
  refine ⟨t₂, ?_⟩
  have hall := hsel.trans (.step hread (.step hclear (.step (hset _ rfl) hidle)))
  simpa [pulsed, bankRead_bankWrite_same _ _ _ _ (Nat.lt_succ_of_le hb)] using hall

end

end Sys2Proof.Proofs
end

section
/-! ## POLL and SERVICE (R183 to R185) -/

namespace Sys2Proof.Proofs

open Sys2Proof.Machine Sys2Proof.Laws Sys2Proof.Safety

/-! ### The lowest latched bit -/

/-- Port `i` is the first with a latch set. -/
structure FirstLatched (ch : Chip) (i : Nat) : Prop where
  le : i ≤ 2
  latched : bankRead ch.intId i 0 ≠ 0
  below : ∀ j, j < i → bankRead ch.intId j 0 = 0

theorem pend_ne_zero_of_firstLatched {ch : Chip} {i : Nat} (h : FirstLatched ch i) : pend ch ≠ 0 := by
  obtain ⟨hle, hl, -⟩ := h
  intro hp
  obtain ⟨h0, h1, h2⟩ := (pend_eq_zero ch).mp hp
  match i, hle with
  | 0, _ => exact hl h0
  | 1, _ => exact hl h1
  | 2, _ => exact hl h2

/-- A bit number's latch, by port and place. -/
theorem latched_bitNo (ch : Chip) {i j : Nat} (hj : j < 8) :
    Latched ch (bitNo i j) ↔ (bankRead ch.intId i 0).getLsbD j = true := by
  have hport : (bitNo i j - 1) / 8 = i := portOf_bitNo i j hj
  have hpos : (bitNo i j - 1) % 8 = j := posOf_bitNo i j hj
  rw [Latched, hport, hpos]

/-- No bit of lower number is latched, so the lowest latched bit is the first of the first port that has
one (R184). -/
theorem firstLatched_of_lowestLatched {ch : Chip} {b : Nat} (h : LowestLatched ch b) :
    FirstLatched ch (portOf b) ∧
      foundIn (portOf b) (bankRead ch.intId (portOf b) 0) = BitVec.ofNat 6 b := by
  obtain ⟨h1, h24, hl, hlow⟩ := h
  have hb := bitNo_portOf b h1
  have hpos : posOf b < 8 := Nat.mod_lt _ (by decide)
  have hne : bankRead ch.intId (portOf b) 0 ≠ 0 := fun h0 => by
    rw [← hb, latched_bitNo ch hpos, h0] at hl
    simp at hl
  have hnone : ∀ j n, n < 8 → bitNo j n < b → (bankRead ch.intId j 0).getLsbD n = false :=
    fun j n hn hlt => by
      have := hlow _ hlt (Nat.le_add_left 1 _)
      rwa [latched_bitNo ch hn, Bool.not_eq_true] at this
  refine ⟨⟨portOf_le h24, hne, fun j hj => ?_⟩, ?_⟩
  · by_contra h0
    have hlt := lsb_lt (bankRead ch.intId j 0)
    have := hnone j _ hlt (by rw [← hb]; unfold bitNo; omega)
    rw [(lsb_spec _ h0).1] at this
    cases this
  · have hlt := lsb_lt (bankRead ch.intId (portOf b) 0)
    obtain ⟨hset, hclear⟩ := lsb_spec _ hne
    have hle : lsb (bankRead ch.intId (portOf b) 0) ≤ posOf b := by
      by_contra hgt
      have := hclear (posOf b) (by omega)
      rw [← hb, latched_bitNo ch hpos, this] at hl
      cases hl
    have hge : posOf b ≤ lsb (bankRead ch.intId (portOf b) 0) := by
      by_contra hgt
      have := hnone (portOf b) _ hlt (by unfold bitNo at hb ⊢; omega)
      rw [hset] at this
      cases this
    rw [foundIn, le_antisymm hle hge, hb]

/-! ### POLL -/

theorem afterRead_pending (ch : Chip) : afterRead 6 ch = { ch with draws := ch.draws + 1 } := rfl

section
variable {p : Program} {tmp : Temps} {ch : Chip}

theorem scanPort_missed (c : Nat) {i : Nat} (found next : Nat) (missed : EventNo) (tmp : Temps)
    {ch : Chip} (hi : i ≤ 2) (hpage : ch.page = 3) (h : bankRead ch.intId i 0 = 0) :
    scanPort c i found next missed tmp ch = .goto next { tmp with t := 0, r := missed } ch := by
  rw [scanPort, ioRead_intId c hi hpage, afterRead_intId hi hpage, if_pos h, h]

theorem scanPort_found (c : Nat) {i : Nat} (found next : Nat) (missed : EventNo) (tmp : Temps)
    {ch : Chip} (hi : i ≤ 2) (hpage : ch.page = 3) (h : bankRead ch.intId i 0 ≠ 0) :
    scanPort c i found next missed tmp ch = .goto found
      { tmp with t := bankRead ch.intId i 0, r := foundIn i (bankRead ch.intId i 0) } ch := by
  rw [scanPort, ioRead_intId c hi hpage, afterRead_intId hi hpage, if_neg h]

/-- Steps d, e and f of POLL find the first port that has a latch set. -/
theorem reaches_scan {c base none i : Nat} (hpage : ch.page = 3) (h : FirstLatched ch i)
    (hp : ∀ d tmp' ch', d < 8 → p (base + d) tmp' ch' = poll c base none (d + 1) tmp' ch') :
    ∃ n tmp', n ≤ 3 ∧ tmp'.r = foundIn i (bankRead ch.intId i 0) ∧
      Reaches p n (base + 3) tmp ch (base + 6) tmp' ch := by
  obtain ⟨hle, hl, hbelow⟩ := h
  have h0 := fun tmp' => hp 3 tmp' ch (by decide)
  have h1 := fun tmp' => hp 4 tmp' ch (by decide)
  have h2 := fun tmp' => hp 5 tmp' ch (by decide)
  match i, hle with
  | 0, _ =>
    exact ⟨1, _, by decide, rfl,
      .single ((h0 _).trans (scanPort_found c _ _ _ _ (by decide) hpage hl))⟩
  | 1, _ =>
    have miss0 := (h0 tmp).trans
      (scanPort_missed c _ _ _ _ (by decide) hpage (hbelow 0 (by decide)))
    exact ⟨2, _, by decide, rfl,
      .step miss0 (.single ((h1 _).trans (scanPort_found c _ _ _ _ (by decide) hpage hl)))⟩
  | 2, _ =>
    have miss0 := (h0 tmp).trans
      (scanPort_missed c _ _ _ _ (by decide) hpage (hbelow 0 (by decide)))
    have miss1 := fun tmp' => (h1 tmp').trans
      (scanPort_missed c _ _ _ _ (by decide) hpage (hbelow 1 (by decide)))
    exact ⟨3, _, by decide, rfl, .step miss0 (.step (miss1 _)
      (.single ((h2 _).trans (scanPort_found c _ _ _ _ (by decide) hpage hl))))⟩

/-- POLL of a chip with a latch set: the result is the first latched bit of the first port that has one,
and the idle page is selected (R183). -/
theorem reaches_poll {c base none i : Nat} (h : FirstLatched ch i)
    (hp : ∀ d tmp' ch', d < 8 → p (base + d) tmp' ch' = poll c base none (d + 1) tmp' ch') :
    ∃ n tmp', n ≤ 8 ∧ tmp'.r = foundIn i (bankRead ch.intId i 0) ∧
      Reaches p n base tmp ch (base + 8) tmp'
        { ch with page := Config.idlePage, draws := ch.draws + 1 } := by
  have hstart : p base tmp ch = .goto (base + 1) { tmp with s := pend ch }
      { ch with draws := ch.draws + 1 } := by
    rw [← Nat.add_zero base, hp 0 _ _ (by decide), poll, ioRead_pending, pending_masked,
      if_neg (pend_ne_zero_of_firstLatched h), afterRead_pending]
  obtain ⟨t₁, hsel⟩ := reaches_select (p := p) (pg := 3) (hp 1 { tmp with s := pend ch }
    { ch with draws := ch.draws + 1 } (by decide)) (fun t => hp 2 _ _ (by decide))
  obtain ⟨n, tmp₂, hn, hr, hscan⟩ := reaches_scan
    (ch := { ch with page := 3, draws := ch.draws + 1 })
    (tmp := { tmp with s := pend ch, t := t₁ }) rfl ⟨h.le, h.latched, h.below⟩ hp
  have hne : tmp₂.r ≠ 0 := fun h0 => by
    have := (foundIn_range (bankRead ch.intId i 0) h.le).1
    rw [← hr, h0] at this
    exact absurd this (by decide)
  obtain ⟨t₂, hidle⟩ := reaches_select (p := p) (pg := Config.idlePage) (n' := base + 8)
    (hp 6 tmp₂ { ch with page := 3, draws := ch.draws + 1 } (by decide)) (fun t => by
      rw [hp 7 _ _ (by decide), poll, if_neg hne])
  exact ⟨1 + 2 + n + 2, { tmp₂ with t := t₂ }, by omega, hr,
    (((Reaches.single hstart).trans hsel).trans hscan).trans hidle⟩

/-! ### SERVICE -/

/-- The micro-program has SERVICE at its positions `base` to `base + 14` (R185). -/
def HoldsService (p : Program) (c base : Nat) : Prop :=
  ∀ d tmp ch, d < 15 → p (base + d) tmp ch = service c base (d + 1) tmp ch

/-- SERVICE of a chip with nothing latched is one step. -/
theorem reaches_service_none {c base : Nat} (hp : HoldsService p c base) (tmp : Temps)
    (h : NothingLatched ch) :
    ∃ tmp', tmp'.r = 0 ∧
      Reaches p 1 base tmp ch (base + 15) tmp' { ch with draws := ch.draws + 1 } := by
  have hpend : pend ch = 0 := (pend_eq_zero ch).mpr ⟨h 0 (by decide), h 1 (by decide), h 2 (by decide)⟩
  refine ⟨{ tmp with s := 0, r := 0 }, rfl, .single ?_⟩
  rw [← Nat.add_zero base, hp 0 _ _ (by decide), service, if_pos (by decide), poll, ioRead_pending,
    pending_masked, if_pos hpend, afterRead_pending]

/-- The bytes of CLEARPULSE: where latches lie within the enable byte, the pulse of a latched bit leaves
the enable byte and clears that latch alone. -/
theorem pulse_bits (l e : Byte) (j : Nat) (hl : l.getLsbD j = true) (hle : l &&& ~~~e = 0) :
    e ||| 1#8 <<< j = e ∧ l &&& (e &&& ~~~(1#8 <<< j)) &&& e = l &&& ~~~(1#8 <<< j) := by
  have hbits : ∀ n (hn : n < 8), l[n] = true → e[n] = true := fun n hn hln => by
    have h := congrArg (·.getLsbD n) hle
    simpa [hn, hln] using h
  constructor
  · ext n hn
    rw [BitVec.getElem_or, Bool.or_eq_left_iff_imp]
    intro hm
    obtain rfl : n = j := by
      simp at hm
      omega
    exact hbits n hn (by rwa [BitVec.getLsbD_eq_getElem hn] at hl)
  · ext n hn
    have := hbits n hn
    simp only [BitVec.getElem_and, BitVec.getElem_not]
    cases hln : l[n]
    · simp
    · simp [this hln]

/-- CLEARPULSE of a latched bit, where only enabled bits are latched, clears its latch and leaves every
enable bit (R180, R184). -/
theorem pulsed_latched {b : Nat} (hb : portOf b ≤ 2) (hl : Latched ch b) (hen : LatchesEnabled ch) :
    pulsed b ch =
      { ch with
        page := 0
        intId := bankWrite ch.intId (portOf b) (bankRead ch.intId (portOf b) 0 &&& ~~~maskOf b) } := by
  obtain ⟨henab, hlatch⟩ := pulse_bits (bankRead ch.intId (portOf b) 0) (bankRead ch.enab (portOf b) 0)
    (posOf b) hl (hen (portOf b) (Nat.lt_succ_of_le hb))
  unfold pulsed maskOf
  rw [henab, hlatch, bankWrite_bankRead]
  rfl

/-- SERVICE of a chip with a bit latched: the lowest is the result, its latch is cleared, and the idle
page is selected (R184, R185). -/
theorem reaches_service_latched {c base b : Nat} (hp : HoldsService p c base) (tmp : Temps)
    (hb : LowestLatched ch b) (hen : LatchesEnabled ch) :
    ∃ n tmp', n ≤ 15 ∧ tmp'.r = BitVec.ofNat 6 b ∧
      Reaches p n base tmp ch (base + 15) tmp'
        { ch with
          page := 0
          intId := bankWrite ch.intId (portOf b) (bankRead ch.intId (portOf b) 0 &&& ~~~maskOf b)
          draws := ch.draws + 1 } := by
  obtain ⟨hfirst, hfound⟩ := firstLatched_of_lowestLatched hb
  have hport := hfirst.le
  obtain ⟨n, tmp₁, hn, hr, hpoll⟩ := reaches_poll (p := p) (base := base) (tmp := tmp) hfirst
    fun d tmp' ch' hd => (hp d tmp' ch' (by omega)).trans (if_pos (by omega))
  rw [hfound] at hr
  have hnum : tmp₁.r.toNat = b := by
    rw [hr, BitVec.toNat_ofNat]
    exact Nat.mod_eq_of_lt (lt_of_le_of_lt hb.2.1 (by decide))
  obtain ⟨t, hpulse⟩ := reaches_clearPulse (p := p) (c := c) (base := base + 8) (tmp := tmp₁)
    (ch := { ch with page := Config.idlePage, draws := ch.draws + 1 }) hport fun d t ch' hd => by
      rw [Nat.add_assoc, hp (8 + d) _ _ (by omega), service, if_neg (by omega), hnum]
      congr 1
      omega
  have heq := pulsed_latched (ch := { ch with page := Config.idlePage, draws := ch.draws + 1 }) hport
    hb.2.2.1 hen
  exact ⟨n + 7, { tmp₁ with t := t }, by omega, hr, hpoll.trans (heq ▸ hpulse)⟩

end

/-! ### WAIT_INT of a polled chip (R211) -/

/-- The first service of a polled WAIT_INT stands at its positions 2 to 16. -/
theorem progWaitPolled_holdsService (k c : Nat) : HoldsService (progWaitPolled k c) c 2 := by
  intro d tmp ch hd
  interval_cases d <;> rfl

section
variable {k c : Nat} {ch : Chip}

theorem progWaitPolled_acquires (tmp : Temps) (h : ch.wlock = none) :
    progWaitPolled k c 1 tmp ch = .goto 2 tmp { ch with wlock := some (.consumer k) } := by
  simp [progWaitPolled, acquireW, h]

/-- After the first service: the answer, or the wait for the queue lock. -/
theorem progWaitPolled_found {tmp : Temps} (h : ch.wlock = some (.consumer k)) (hr : tmp.r ≠ 0) :
    progWaitPolled k c 17 tmp ch = .respond .ok (eventValue tmp.r) { ch with wlock := none } := by
  rw [progWaitPolled, releaseW, if_pos h, if_neg hr]

theorem progWaitPolled_missed {tmp : Temps} (h : ch.wlock = some (.consumer k)) (hr : tmp.r = 0) :
    progWaitPolled k c 17 tmp ch = .goto 18 tmp { ch with wlock := none } := by
  rw [progWaitPolled, releaseW, if_pos h, if_pos hr]

/-- A polled WAIT_INT that finds a bit latched answers it (R185, R211). -/
theorem runProgram_waitPolled_latched {b : Nat} (hw : ch.wlock = none) (hb : LowestLatched ch b)
    (hen : LatchesEnabled ch) :
    runProgram (progWaitPolled k c) longestProgram 1 {} ch =
      .answered .ok (BitVec.ofNat 8 b)
        { ch with
          page := 0
          intId := bankWrite ch.intId (portOf b) (bankRead ch.intId (portOf b) 0 &&& ~~~maskOf b)
          draws := ch.draws + 1 } := by
  obtain ⟨n, tmp, hn, hr, hserve⟩ := reaches_service_latched
    (ch := { ch with wlock := some (.consumer k) }) (progWaitPolled_holdsService k c) {} hb hen
  have h24 : b < 64 := lt_of_le_of_lt hb.2.1 (by decide)
  have hne : tmp.r ≠ 0 := fun h0 => by
    have := hb.1
    rw [hr, ← BitVec.toNat_inj, BitVec.toNat_ofNat, Nat.mod_eq_of_lt h24] at h0
    exact absurd h0 (by simp; omega)
  have hvalue : eventValue tmp.r = BitVec.ofNat 8 b := by
    rw [hr, eventValue]
    apply BitVec.eq_of_toNat_eq
    simp
    omega
  rw [runProgram_reaches_respond (.step (progWaitPolled_acquires {} hw) hserve)
    (by unfold longestProgram; omega) (progWaitPolled_found rfl hne), hvalue]
  simp only [← hw]

/-- One that finds nothing latched gives the window back and stands before step 18 (R211). -/
theorem reaches_waitPolled_missed (hw : ch.wlock = none) (h : NothingLatched ch) :
    ∃ tmp, Reaches (progWaitPolled k c) 3 1 {} ch 18 tmp { ch with draws := ch.draws + 1 } := by
  obtain ⟨tmp, hr, hserve⟩ := reaches_service_none
    (ch := { ch with wlock := some (.consumer k) }) (progWaitPolled_holdsService k c) {} h
  refine ⟨tmp, .step (progWaitPolled_acquires {} hw) (hserve.trans (.single ?_))⟩
  rw [progWaitPolled_missed rfl hr]
  simp only [← hw]

/-- From there, with the queue lock free, it joins `WAITERS` and stands before step 21 (R42, R211). -/
theorem reaches_waitPolled_joined (tmp : Temps) (hq : ch.qlock = none) :
    Reaches (progWaitPolled k c) 3 18 tmp ch 21 tmp (joinWaiters k ch) := by
  have hacq : progWaitPolled k c 18 tmp ch = .goto 19 tmp { ch with qlock := some (.consumer k) } := by
    simp [progWaitPolled, acquireQ, hq]
  refine .step hacq (.step rfl (.single ?_))
  simp [progWaitPolled, releaseQ, joinWaiters, ← hq]

theorem progWaitPolled_queueHeld (tmp : Temps) (hq : ch.qlock ≠ none) :
    progWaitPolled k c 18 tmp ch = .wait := by
  simp [progWaitPolled, acquireQ, hq]

theorem progWaitPolled_unwoken (tmp : Temps) (h : k ∉ ch.woken) :
    progWaitPolled k c 21 tmp ch = .wait := by
  simp [progWaitPolled, h]

end

theorem exec_waitInt_polled {s : State} {c : Nat} (hm : s.irqMode c = false) :
    exec (.waitInt c) s = command (.waitInt c) (progWaitPolled s.cur c) s := by
  simp [exec, execWaitInt, progWaitInt, hm]

/-- Settles O27: the first service answers where a bit is latched; else the consumer goes on to join
`WAITERS`, as far as the queue lock lets it. -/
theorem waitIntPolledAnswersOrBlocks : Obligations.WaitIntPolledAnswersOrBlocks := by
  intro s c ⟨hbusy, hpres⟩ hm hw hen ch
  have hanswers := fun st v ch' => command_answers (.waitInt c) (progWaitPolled s.cur c) s st v ch'
    hbusy hpres rfl
  have hwaits := fun u tmp ch' => command_waits (.waitInt c) (progWaitPolled s.cur c) s u tmp ch'
    hbusy hpres rfl
  rw [exec_waitInt_polled hm]
  refine ⟨fun b hb => ⟨ch.draws + 1, ?_⟩, fun hn hq hwok => ?_, fun hn hq => ?_⟩
  · exact hanswers _ _ _ (runProgram_waitPolled_latched hw hb hen)
  · obtain ⟨tmp, hmiss⟩ := reaches_waitPolled_missed (k := s.cur) (c := c) hw hn
    have hjoin := reaches_waitPolled_joined (k := s.cur) (c := c)
      (ch := { ch with draws := ch.draws + 1 }) tmp hq
    exact ⟨_, _, hwaits _ _ _ (runProgram_reaches_wait (hmiss.trans hjoin) (by decide)
      (progWaitPolled_unwoken tmp hwok))⟩
  · obtain ⟨tmp, hmiss⟩ := reaches_waitPolled_missed (k := s.cur) (c := c) hw hn
    exact ⟨_, _, hwaits _ _ _ (runProgram_reaches_wait hmiss (by decide)
      (progWaitPolled_queueHeld tmp hq))⟩

/-! ### WAIT_INT of an IRQ-driven chip (R202, R211) -/

theorem popValue_of_unread {ch : Chip} {e : EventNo} (c : Nat) (hne : ch.qcnt ≠ 0)
    (he : memRead? ch.buf ch.qout.toNat = some e) : popValue c ch = e := by
  have hne : ¬ch.qcnt = 0#11 := hne
  simp [popValue, queueEmpty, hne, oldest, he]

theorem popChip_of_unread {ch : Chip} {e : EventNo} (hne : ch.qcnt ≠ 0)
    (he : memRead? ch.buf ch.qout.toNat = some e) :
    popChip ch = { ch with qout := ch.qout + 1, qcnt := ch.qcnt - 1 } := by
  have hne : ¬ch.qcnt = 0#11 := hne
  simp [popChip, queueEmpty, hne, he]

theorem popValue_of_empty {ch : Chip} (c : Nat) (h : ch.qcnt = 0) : popValue c ch = 0 := by
  simp [popValue, queueEmpty, h]

theorem popChip_of_empty {ch : Chip} (h : ch.qcnt = 0) : popChip ch = ch := by
  simp [popChip, queueEmpty, h]

section
variable {k c : Nat} {ch : Chip}

theorem progWaitBuffered_acquires (tmp : Temps) (h : ch.qlock = none) :
    progWaitBuffered k c 1 tmp ch = .goto 2 tmp { ch with qlock := some (.consumer k) } := by
  simp [progWaitBuffered, acquireQ, h]

theorem progWaitBuffered_pops {e : EventNo} (tmp : Temps) (hne : ch.qcnt ≠ 0)
    (he : memRead? ch.buf ch.qout.toNat = some e) (h0 : e ≠ 0) :
    progWaitBuffered k c 2 tmp ch =
      .goto 3 { tmp with r := e } { ch with qout := ch.qout + 1, qcnt := ch.qcnt - 1 } := by
  rw [progWaitBuffered, popValue_of_unread c hne he, popChip_of_unread hne he, if_neg h0]

theorem progWaitBuffered_joins (tmp : Temps) (h : ch.qcnt = 0) :
    progWaitBuffered k c 2 tmp ch = .goto 3 { tmp with r := 0 } (joinWaiters k ch) := by
  rw [progWaitBuffered, popValue_of_empty c h, popChip_of_empty h, if_pos rfl]

theorem progWaitBuffered_answers {tmp : Temps} (hq : ch.qlock = some (.consumer k)) (h0 : tmp.r ≠ 0) :
    progWaitBuffered k c 3 tmp ch = .respond .ok (eventValue tmp.r) { ch with qlock := none } := by
  rw [progWaitBuffered, releaseQ, if_pos hq, if_neg h0]

theorem progWaitBuffered_blocks {tmp : Temps} (hq : ch.qlock = some (.consumer k)) (h0 : tmp.r = 0) :
    progWaitBuffered k c 3 tmp ch = .goto 4 tmp { ch with qlock := none } := by
  rw [progWaitBuffered, releaseQ, if_pos hq, if_pos h0]

theorem progWaitBuffered_unwoken (tmp : Temps) (h : ch.qcnt = 0) (hk : k ∉ ch.woken) :
    progWaitBuffered k c 4 tmp ch = .wait := by
  rw [progWaitBuffered, if_neg (by simp [h, hk])]

/-- A buffered WAIT_INT that finds an event unread answers it (R202, R211). -/
theorem runProgram_waitBuffered_unread {e : EventNo} (hq : ch.qlock = none) (hne : ch.qcnt ≠ 0)
    (he : memRead? ch.buf ch.qout.toNat = some e) (h0 : e ≠ 0) :
    runProgram (progWaitBuffered k c) longestProgram 1 {} ch =
      .answered .ok (eventValue e) { ch with qout := ch.qout + 1, qcnt := ch.qcnt - 1 } := by
  rw [runProgram_reaches_respond (.step (progWaitBuffered_acquires {} hq)
    (.single (progWaitBuffered_pops {} hne he h0))) (by decide) (progWaitBuffered_answers rfl h0)]
  simp only [← hq]

/-- One that finds the queue empty joins `WAITERS`, gives the queue lock back and waits before step 4
(R42, R211). -/
theorem runProgram_waitBuffered_empty (hq : ch.qlock = none) (h : ch.qcnt = 0) (hk : k ∉ ch.woken) :
    ∃ tmp, runProgram (progWaitBuffered k c) longestProgram 1 {} ch =
      .waiting 4 tmp (joinWaiters k ch) := by
  refine ⟨{}, ?_⟩
  rw [runProgram_reaches_wait (.step (progWaitBuffered_acquires {} hq)
    (.step (progWaitBuffered_joins {} h) (.single (progWaitBuffered_blocks rfl rfl))))
    (by decide) (progWaitBuffered_unwoken _ h hk)]
  simp only [joinWaiters, ← hq]

end

theorem exec_waitInt_buffered {s : State} {c : Nat} (hm : s.irqMode c = true) :
    exec (.waitInt c) s = command (.waitInt c) (progWaitBuffered s.cur c) s := by
  simp [exec, execWaitInt, progWaitInt, hm]

/-- Settles O26: the first POP answers an event that is not 0, or finds nothing and the consumer joins
`WAITERS` under the queue lock. -/
theorem waitIntBufferedAnswersOrBlocks : Obligations.WaitIntBufferedAnswersOrBlocks := by
  intro s c ⟨hbusy, hpres⟩ hm hq ch
  rw [exec_waitInt_buffered hm]
  refine ⟨fun e hne he h0 => ?_, fun hempty hwok => ?_⟩
  · exact command_answers _ _ s _ _ _ hbusy hpres rfl (runProgram_waitBuffered_unread hq hne he h0)
  · obtain ⟨tmp, hrun⟩ := runProgram_waitBuffered_empty (c := c) hq hempty hwok
    exact ⟨tmp, command_waits _ _ s _ _ _ hbusy hpres rfl hrun⟩

end Sys2Proof.Proofs
end

section
/-! ## Commands that wait at once, and commands that only read (R70, R76, R80, R82, R131, R151) -/

namespace Sys2Proof.Proofs

open Sys2Proof.Machine Sys2Proof.Laws Sys2Proof.Safety

/-! ### A command that finds its first lock held -/

/-- The first step of a command that then holds the window is the acquisition of the window (R80). -/
theorem programOf_first_acquireW (k : Nat) {m : Bool} {i : Instr} (h : holdsWindow m i 2 = true)
    (tmp : Temps) (ch : Chip) :
    programOf k m i 1 tmp ch = acquireW (.consumer k) 2 tmp ch := by
  cases i with
  | readPort c x => cases h
  | readBit c x => cases h
  | getInt c =>
    cases m with
    | false => rfl
    | true => cases h
  | waitInt c =>
    cases m with
    | false => rfl
    | true => cases h
  | _ => rfl

/-- The first step of a command that then holds the queue lock is its acquisition (R82). -/
theorem programOf_first_acquireQ (k : Nat) {m : Bool} {i : Instr} (h : holdsQueue m i 2 = true)
    (tmp : Temps) (ch : Chip) :
    programOf k m i 1 tmp ch = acquireQ (.consumer k) 2 tmp ch := by
  cases i with
  | getInt c =>
    cases m with
    | false => cases h
    | true => rfl
  | waitInt c =>
    cases m with
    | false => cases h
    | true => rfl
  | _ => cases h

/-- A command whose first step is not enabled is accepted and waits before it (R50, R255). -/
theorem exec_waits_at_first {s : State} {i : Instr} (hr : Ready s i.chipField)
    (hx : indexOk i = true)
    (hw : programOf s.cur (s.irqMode i.chipField) i 1 {} (s.chip i.chipField) = .wait) :
    exec i s = .next (s.setFlight s.cur ⟨encode i, 1, {}⟩) := by
  rw [exec_eq_command, command_waits i _ s _ _ _ hr.1 hr.2 hx (runProgram_wait _ _ _ _ _ hw),
    setChip_chip]
  rfl

/-- Settles O12: the command's first step is the acquisition of the lock, which is not enabled while the
lock is held. -/
theorem heldLockMakesCommandWait : Obligations.HeldLockMakesCommandWait := by
  intro s i hr hx hheld
  refine ⟨{}, exec_waits_at_first hr hx ?_⟩
  rcases hheld with ⟨hh, hl⟩ | ⟨hh, hl⟩
  · rw [programOf_first_acquireW _ hh, acquireW, if_neg hl]
  · rw [programOf_first_acquireQ _ hh, acquireQ, if_neg hl]

/-! ### READ_PORT and READ_BIT -/

/-- READ_PORT and READ_BIT are one bus read, and answer (R131, R151). -/
theorem runProgram_read (k : Nat) (m : Bool) {c x : Nat} {i : Instr}
    (h : i = .readPort c x ∨ i = .readBit c x) (ch : Chip) :
    ∃ off v, runProgram (programOf k m i) longestProgram 1 {} ch =
      .answered .ok v (afterRead off ch) := by
  rcases h with rfl | rfl
  · exact ⟨x, _, runProgram_respond _ _ _ _ _ _ _ _ rfl⟩
  · exact ⟨portOf x, _, runProgram_respond _ _ _ _ _ _ _ _ rfl⟩

/-- What READ_PORT and READ_BIT do, where they do anything: a response, and on the chip at most a bus
read (R70). -/
theorem exec_read_cases {s t : State} {c x : Nat} {i : Instr}
    (h : i = .readPort c x ∨ i = .readBit c x) (ht : exec i s = .next t) :
    (∃ st v, t = s.deliver s.cur st v) ∨
      (s.present c = true ∧ ∃ off st v,
        t = (s.setChip c (afterRead off (s.chip c))).deliver s.cur st v) := by
  have hc : i.chipField = c := by rcases h with rfl | rfl <;> rfl
  rcases exec_cases i s with ⟨-, he⟩ | ⟨-, st, -, he⟩ | ⟨hb, hi, -⟩
  · rw [he] at ht; cases ht
  · rw [he] at ht; cases ht
    exact .inl ⟨st, 0, rfl⟩
  · obtain ⟨hp, hx⟩ := (issueFault_none i s).mp hi
    obtain ⟨off, v, hrun⟩ := runProgram_read s.cur (s.irqMode i.chipField) h (s.chip i.chipField)
    rw [exec_eq_command, command_answers i _ s _ _ _ hb hp hx hrun] at ht
    cases ht
    rw [hc] at hp ⊢
    exact .inr ⟨hp, off, .ok, v, rfl⟩

/-- Settles O56: a bus read changes at most the draw counter, and an answered command leaves no
record. -/
theorem readCommandsFrame : Obligations.ReadCommandsFrame := by
  intro s t c x i h ht
  suffices hframe : (∃ n, t.chip c = { s.chip c with draws := n }) ∧ t.inflight = s.inflight by
    obtain ⟨⟨n, hch⟩, hin⟩ := hframe
    exact ⟨⟨n, hch⟩, hin, fun a => by rw [hch]⟩
  rcases exec_read_cases h ht with ⟨st, v, rfl⟩ | ⟨hp, off, st, v, rfl⟩
  · exact ⟨⟨_, rfl⟩, rfl⟩
  · refine ⟨?_, rfl⟩
    rw [deliver_chip, chip_setChip_present s c _ hp]
    rcases afterRead_cases off (s.chip c) with hr | hr <;> rw [hr] <;> exact ⟨_, rfl⟩

end Sys2Proof.Proofs
end

section
/-! ## The block at rest (R77, R211, R296) -/

namespace Sys2Proof.Proofs

open Sys2Proof.Machine Sys2Proof.Laws Sys2Proof.Safety

/-- While the block is quiescent every agent stands outside everything on every present chip (R296). -/
theorem agentStanding_of_quiescent {s : State} {c : Nat} (hq : quiescent s = true)
    (hp : s.present c = true) (a : Holder) : agentStanding s c a = .idle := by
  obtain ⟨hin, hiss⟩ := Bool.and_eq_true_iff.mp hq
  cases a with
  | consumer k =>
    refine agentStanding_of_flight_none c ?_
    rw [State.flight, List.isEmpty_iff.mp hin]
    rfl
  | iss =>
    have hu : (s.chip c).iss.upc = 0 :=
      beq_iff_eq.mp (List.all_eq_true.mp hiss c (present_mem hp))
    rw [agentStanding, hu]
    split <;> rfl

/-- So no agent has anything of a present chip that agents have exactly as they stand. -/
theorem Exact.none_of_quiescent {M : Chip → Holder → Prop} {T : Standing → Bool} {s : State} {c : Nat}
    (h : Exact M T s) (hT : T .idle = false) (hq : quiescent s = true) (hp : s.present c = true)
    (a : Holder) : ¬M (s.chip c) a := by
  rw [h c hp a, agentStanding_of_quiescent hq hp, hT]
  exact Bool.false_ne_true

/-- Settles O53: at rest no agent stands inside a lock or between join and leave, so no agent holds a
lock and no consumer is in `WAITERS`, of which `WOKEN` is a subset. -/
theorem quiescentBlockIsFree : Obligations.QuiescentBlockIsFree := by
  intro s c hlocks hwaiters hcanon hq hp
  obtain ⟨hw, hql⟩ := (locksHeld_iff s).mp hlocks
  have hset := (waitersExact_iff s).mp hwaiters
  have hnone : ∀ k, k ∉ (s.chip c).waiters := fun k => hset.none_of_quiescent rfl hq hp (.consumer k)
  obtain ⟨-, -, hsub⟩ := hcanon c (present_mem hp)
  exact ⟨Option.eq_none_iff_forall_ne_some.mpr (hw.none_of_quiescent rfl hq hp),
    Option.eq_none_iff_forall_ne_some.mpr (hql.none_of_quiescent rfl hq hp),
    List.eq_nil_iff_forall_not_mem.mpr hnone,
    List.eq_nil_iff_forall_not_mem.mpr fun k hk => hnone k (hsub k hk)⟩

end Sys2Proof.Proofs
end

section
/-! ## How long a lock is held (R77, R217) -/

namespace Sys2Proof.Proofs

open Sys2Proof.Machine Sys2Proof.Laws Sys2Proof.Safety

/-! ### The steps of a hold -/

/-- The step numbered `u` of the holder `me` is taken; it frees the lock, or it keeps it and leads
further on, to a step up to `hi`. -/
def Nears (lock : Chip → Option Holder) (me : Holder) (u hi : Nat) : Micro → Prop
  | .wait => False
  | .goto u' _ ch => lock ch = none ∨ (lock ch = some me ∧ u < u' ∧ u' ≤ hi)
  | .respond _ _ ch => lock ch = none

/-- The micro-program holds the lock before its steps `lo` to `hi`: each of them nears the release, and
step `hi` is it. -/
def HoldsUntil (lock : Chip → Option Holder) (me : Holder) (p : Program) (lo hi : Nat) : Prop :=
  ∀ u tmp ch, lo ≤ u → u ≤ hi → lock ch = some me → Nears lock me u hi (p u tmp ch)

section
variable {lock : Chip → Option Holder} {me : Holder} {u hi n : Nat} {tmp : Temps} {ch : Chip}

@[simp] theorem nears_goto (hl : lock ch = some me) :
    Nears lock me u hi (.goto n tmp ch) ↔ u < n ∧ n ≤ hi := by
  simp [Nears, hl]

@[simp] theorem nears_readTo (c off : Nat) (hl : ch.wlock = some me) :
    Nears Chip.wlock me u hi (readTo c off n tmp ch) ↔ u < n ∧ n ≤ hi :=
  nears_goto ((sameShared_afterRead off ch).wlock.trans hl)

@[simp] theorem nears_writeFrom (off : Nat) (v : Byte) (hl : ch.wlock = some me) :
    Nears Chip.wlock me u hi (writeFrom off v n tmp ch) ↔ u < n ∧ n ≤ hi :=
  nears_goto ((sameShared_ioWrite off v ch).wlock.trans hl)

@[simp] theorem nears_selectWrite (pg : BitVec 2) (hl : ch.wlock = some me) :
    Nears Chip.wlock me u hi (selectWrite pg n tmp ch) ↔ u < n ∧ n ≤ hi :=
  nears_writeFrom 7 _ hl

@[simp] theorem nears_releaseW_respond (st : Status) (v : Byte) (hl : ch.wlock = some me) :
    Nears Chip.wlock me u hi (releaseW me ch fun ch' => .respond st v ch') := by
  simp [releaseW, hl, Nears]

@[simp] theorem nears_releaseQ_respond (st : Status) (v : Byte) (hl : ch.qlock = some me) :
    Nears Chip.qlock me u hi (releaseQ me ch fun ch' => .respond st v ch') := by
  simp [releaseQ, hl, Nears]

@[simp] theorem nears_releaseQ_goto (hl : ch.qlock = some me) :
    Nears Chip.qlock me u hi (releaseQ me ch fun ch' => .goto n tmp ch') := by
  simp [releaseQ, hl, Nears]

/-! ### CLEARPULSE and SERVICE in a hold -/

theorem nears_clearPulse {c b base pos : Nat} (hl : ch.wlock = some me) (h1 : 1 ≤ pos) (h7 : pos ≤ 7)
    (hu : u < base + pos) (hhi : base + pos ≤ hi) :
    Nears Chip.wlock me u hi (clearPulse c b base pos tmp ch) := by
  have hnext := And.intro hu hhi
  interval_cases pos
  · exact (nears_readTo c 7 hl).mpr hnext
  · exact (nears_selectWrite 2 hl).mpr hnext
  · exact (nears_readTo c _ hl).mpr hnext
  · exact (nears_writeFrom _ _ hl).mpr hnext
  · exact (nears_writeFrom _ _ hl).mpr hnext
  · exact (nears_readTo c 7 hl).mpr hnext
  · exact (nears_selectWrite Config.idlePage hl).mpr hnext

theorem nears_scanPort {c i found : Nat} {missed : EventNo} (hl : ch.wlock = some me)
    (hfound : u < found ∧ found ≤ hi) (hn : u < n ∧ n ≤ hi) :
    Nears Chip.wlock me u hi (scanPort c i found n missed tmp ch) := by
  have hread := (sameShared_afterRead (8 + i) ch).wlock.trans hl
  unfold scanPort
  split
  · exact (nears_goto hread).mpr hn
  · exact (nears_goto hread).mpr hfound

theorem nears_poll {c base none pos : Nat} (hl : ch.wlock = some me) (h1 : 1 ≤ pos) (h8 : pos ≤ 8)
    (hu : u < base + pos) (hu' : u < none) (hhi : base + 8 ≤ hi) (hhi' : none ≤ hi) :
    Nears Chip.wlock me u hi (poll c base none pos tmp ch) := by
  interval_cases pos
  · have hread := (sameShared_afterRead 6 ch).wlock.trans hl
    simp only [poll]
    split
    · exact (nears_goto hread).mpr ⟨hu', hhi'⟩
    · exact (nears_goto hread).mpr (by omega)
  · exact (nears_readTo c 7 hl).mpr (by omega)
  · exact (nears_selectWrite 3 hl).mpr (by omega)
  · exact nears_scanPort hl (by omega) (by omega)
  · exact nears_scanPort hl (by omega) (by omega)
  · exact nears_scanPort hl (by omega) (by omega)
  · exact (nears_readTo c 7 hl).mpr (by omega)
  · refine (nears_selectWrite Config.idlePage hl).mpr ?_
    split
    · exact ⟨hu', hhi'⟩
    · omega

/-- No step of SERVICE leads back (R185). -/
theorem nears_service {c base pos : Nat} (hl : ch.wlock = some me) (h1 : 1 ≤ pos) (h15 : pos ≤ 15)
    (hu : u < base + pos) (hhi : base + 15 ≤ hi) :
    Nears Chip.wlock me u hi (service c base pos tmp ch) := by
  unfold service
  split
  · exact nears_poll hl h1 ‹_› hu (by omega) (by omega) hhi
  · exact nears_clearPulse hl (by omega) (by omega) (by omega) (by omega)

end

section
variable {me : Holder} {p : Program} {c base : Nat}

/-- A micro-program that releases the window right after SERVICE holds it from SERVICE's first step on:
16 steps (R217). -/
theorem holdsUntil_service (hp : HoldsService p c base)
    (hrel : ∀ tmp ch, ch.wlock = some me →
      Nears Chip.wlock me (base + 15) (base + 15) (p (base + 15) tmp ch)) :
    HoldsUntil Chip.wlock me p base (base + 15) := by
  intro u tmp ch hlo hhi hl
  obtain ⟨d, rfl⟩ := Nat.exists_eq_add_of_le hlo
  by_cases hd : d < 15
  · rw [hp d tmp ch hd]
    exact nears_service hl (by omega) (by omega) (by omega) (by omega)
  · obtain rfl : d = 15 := by omega
    exact hrel tmp ch hl

end

theorem progGetPolled_holdsService (me : Holder) (c : Nat) :
    HoldsService (progGetPolled me c) c 2 := by
  intro d tmp ch hd
  interval_cases d <;> rfl

/-- The second service of a polled WAIT_INT stands at its positions 25 to 39. -/
theorem progWaitPolled_holdsSecondService (k c : Nat) : HoldsService (progWaitPolled k c) c 25 := by
  intro d tmp ch hd
  interval_cases d <;> rfl

theorem progIss_holdsService (c : Nat) : HoldsService (progIss c) c 2 := by
  intro d tmp ch hd
  interval_cases d <;> rfl

/-! ### Holds of the window -/

section
variable (me : Holder) (k c : Nat)

theorem progWritePort_holdsWindow (off : Nat) (v : Byte) :
    HoldsUntil Chip.wlock me (progWritePort me off v) 2 3 := by
  intro u tmp ch hlo hhi hl
  have hw := (sameShared_writeThrough off v ch).wlock.trans hl
  interval_cases u <;> simp [progWritePort, hl, hw]

theorem progWriteBit_holdsWindow (b : Nat) (val : Bool) :
    HoldsUntil Chip.wlock me (progWriteBit me b val) 2 3 := by
  intro u tmp ch hlo hhi hl
  have hw := fun off v => (sameShared_writeThrough off v ch).wlock.trans hl
  interval_cases u <;> simp [progWriteBit, hl, hw]

theorem progLockPort_holdsWindow (p : Nat) :
    HoldsUntil Chip.wlock me (progLockPort me c p) 2 4 := by
  intro u tmp ch hlo hhi hl
  interval_cases u <;> simp [progLockPort, hl]

theorem progUnlockPort_holdsWindow (p : Nat) :
    HoldsUntil Chip.wlock me (progUnlockPort me c p) 2 4 := by
  intro u tmp ch hlo hhi hl
  interval_cases u <;> simp [progUnlockPort, hl]

theorem progEnableInt_holdsWindow (b : Nat) (rising : Bool) :
    HoldsUntil Chip.wlock me (progEnableInt me c b rising) 2 12 := by
  intro u tmp ch hlo hhi hl
  interval_cases u <;> simp [progEnableInt, hl]

theorem progDisableInt_holdsWindow (b : Nat) :
    HoldsUntil Chip.wlock me (progDisableInt me c b) 2 8 := by
  intro u tmp ch hlo hhi hl
  interval_cases u <;> simp [progDisableInt, hl]

theorem progClearInt_holdsWindow (b : Nat) :
    HoldsUntil Chip.wlock me (progClearInt me c b) 2 9 := by
  intro u tmp ch hlo hhi hl
  interval_cases u <;> simp [progClearInt, clearPulse, hl]

theorem progClearIntId_holdsWindow (p : Nat) :
    HoldsUntil Chip.wlock me (progClearIntId me c p) 2 7 := by
  intro u tmp ch hlo hhi hl
  interval_cases u <;> simp [progClearIntId, hl]

theorem progGetPolled_holdsWindow : HoldsUntil Chip.wlock me (progGetPolled me c) 2 17 :=
  holdsUntil_service (progGetPolled_holdsService me c) fun _ _ hl => nears_releaseW_respond _ _ hl

theorem progWaitPolled_holdsWindow :
    HoldsUntil Chip.wlock (.consumer k) (progWaitPolled k c) 2 17 := by
  refine holdsUntil_service (progWaitPolled_holdsService k c) fun tmp ch hl => ?_
  by_cases hr : tmp.r = 0
  · rw [progWaitPolled_missed hl hr]
    exact .inl rfl
  · rw [progWaitPolled_found hl hr]
    exact rfl

theorem progWaitPolled_holdsWindowAgain :
    HoldsUntil Chip.wlock (.consumer k) (progWaitPolled k c) 25 40 :=
  holdsUntil_service (progWaitPolled_holdsSecondService k c) fun _ _ hl =>
    nears_releaseW_respond _ _ hl

theorem progIss_holdsWindow : HoldsUntil Chip.wlock .iss (progIss c) 2 17 := by
  refine holdsUntil_service (progIss_holdsService c) fun tmp ch hl => ?_
  rw [progIss, releaseW, if_pos hl]
  split <;> exact .inl rfl

end

/-! ### Holds of the queue lock -/

section
variable (me : Holder) (k c : Nat)

theorem progGetBuffered_holdsQueue : HoldsUntil Chip.qlock me (progGetBuffered me c) 2 3 := by
  intro u tmp ch hlo hhi hl
  have hpop := (popChip_locks ch).2.1.trans hl
  interval_cases u <;> simp [progGetBuffered, hl, hpop]

/-- A buffered WAIT_INT's first hold of the queue lock, in which it pops or joins. -/
theorem progWaitBuffered_holdsQueue :
    HoldsUntil Chip.qlock (.consumer k) (progWaitBuffered k c) 2 3 := by
  intro u tmp ch hlo hhi hl
  have hpop := (popChip_locks ch).2.1.trans hl
  interval_cases u
  · refine (nears_goto ?_).mpr (by decide)
    split <;> exact hpop
  · by_cases hr : tmp.r = 0
    · rw [progWaitBuffered_blocks hl hr]
      exact .inl rfl
    · rw [progWaitBuffered_answers hl hr]
      exact rfl

/-- Its second hold, in which it leaves and pops. -/
theorem progWaitBuffered_holdsQueueAgain :
    HoldsUntil Chip.qlock (.consumer k) (progWaitBuffered k c) 5 6 := by
  intro u tmp ch hlo hhi hl
  have hpop := (popChip_locks (leaveWaiters k ch)).2.1.trans hl
  interval_cases u <;> simp [progWaitBuffered, hl, hpop]

/-- A polled WAIT_INT's first hold of the queue lock, in which it joins. -/
theorem progWaitPolled_holdsQueue :
    HoldsUntil Chip.qlock (.consumer k) (progWaitPolled k c) 19 20 := by
  intro u tmp ch hlo hhi hl
  interval_cases u <;> simp [progWaitPolled, joinWaiters, hl]

/-- Its second hold, in which it leaves. -/
theorem progWaitPolled_holdsQueueAgain :
    HoldsUntil Chip.qlock (.consumer k) (progWaitPolled k c) 22 23 := by
  intro u tmp ch hlo hhi hl
  interval_cases u <;> simp [progWaitPolled, leaveWaiters, hl]

theorem progIss_holdsQueue : HoldsUntil Chip.qlock .iss (progIss c) 19 20 := by
  intro u tmp ch hlo hhi hl
  interval_cases u <;> simp [progIss, wake, push, hl]

end

/-! ### Holds of the commands -/

/-- Before step `u` the micro-program stands in a hold of at most `bound` steps. -/
def StandsInHold (lock : Chip → Option Holder) (me : Holder) (p : Program) (bound u : Nat) : Prop :=
  ∃ lo hi, lo ≤ u ∧ u ≤ hi ∧ hi < lo + bound ∧ HoldsUntil lock me p lo hi

/-- The same, from the comparisons by which the model says where an agent holds a lock. -/
theorem HoldsUntil.stands {lock : Chip → Option Holder} {me : Holder} {p : Program}
    {bound lo hi u : Nat} (h : HoldsUntil lock me p lo hi)
    (hu : (decide (lo ≤ u) && decide (u ≤ hi)) = true) (hb : hi < lo + bound) :
    StandsInHold lock me p bound u := by
  obtain ⟨hlo, hhi⟩ := Bool.and_eq_true_iff.mp hu
  exact ⟨lo, hi, of_decide_eq_true hlo, of_decide_eq_true hhi, hb, h⟩

/-- A command that stands inside the window is in one of its holds of it, the longest of which is a
service (R80, R217). -/
theorem standsInHold_of_holdsWindow (k : Nat) {m : Bool} {i : Instr} {u : Nat}
    (h : holdsWindow m i u = true) :
    StandsInHold Chip.wlock (.consumer k) (programOf k m i) 16 u := by
  cases i with
  | readPort c x => cases h
  | readBit c x => cases h
  | writePort c x v => exact (progWritePort_holdsWindow _ x v).stands h (by decide)
  | writeBit c x v => exact (progWriteBit_holdsWindow _ x _).stands h (by decide)
  | setBit c x => exact (progWriteBit_holdsWindow _ x _).stands h (by decide)
  | clrBit c x => exact (progWriteBit_holdsWindow _ x _).stands h (by decide)
  | enableInt c x v => exact (progEnableInt_holdsWindow _ c x _).stands h (by decide)
  | disableInt c x => exact (progDisableInt_holdsWindow _ c x).stands h (by decide)
  | clearInt c x => exact (progClearInt_holdsWindow _ c x).stands h (by decide)
  | clearIntId c x => exact (progClearIntId_holdsWindow _ c x).stands h (by decide)
  | lockPort c x => exact (progLockPort_holdsWindow _ c x).stands h (by decide)
  | unlockPort c x => exact (progUnlockPort_holdsWindow _ c x).stands h (by decide)
  | getInt c =>
    cases m with
    | true => cases h
    | false => exact (progGetPolled_holdsWindow _ c).stands h (by decide)
  | waitInt c =>
    cases m with
    | true => cases h
    | false =>
      rcases Bool.or_eq_true_iff.mp h with hu | hu
      · exact (progWaitPolled_holdsWindow k c).stands hu (by decide)
      · exact (progWaitPolled_holdsWindowAgain k c).stands hu (by decide)

/-- A command that stands inside the queue lock is in one of its holds of it (R82, R217). -/
theorem standsInHold_of_holdsQueue (k : Nat) {m : Bool} {i : Instr} {u : Nat}
    (h : holdsQueue m i u = true) :
    StandsInHold Chip.qlock (.consumer k) (programOf k m i) 2 u := by
  cases i with
  | getInt c =>
    cases m with
    | false => cases h
    | true => exact (progGetBuffered_holdsQueue _ c).stands h (by decide)
  | waitInt c =>
    cases m with
    | false =>
      rcases Bool.or_eq_true_iff.mp h with hu | hu
      · exact (progWaitPolled_holdsQueue k c).stands hu (by decide)
      · exact (progWaitPolled_holdsQueueAgain k c).stands hu (by decide)
    | true =>
      rcases Bool.or_eq_true_iff.mp h with hu | hu
      · exact (progWaitBuffered_holdsQueue k c).stands hu (by decide)
      · exact (progWaitBuffered_holdsQueueAgain k c).stands hu (by decide)
  | _ => cases h

/-! ### An agent in a hold, taking its own steps -/

/-- Where each step reaches the goal or a lower rank, the goal is reached in one step more than the
rank. -/
theorem exists_iterate_of_rank {σ : Type} {f : σ → σ} {G : σ → Prop} {P : Nat → σ → Prop}
    (h : ∀ n s, P n s → G (f s) ∨ ∃ m, m < n ∧ P m (f s)) {n : Nat} {s : σ} (hs : P n s) :
    ∃ m, m ≤ n + 1 ∧ G (f^[m] s) := by
  induction n using Nat.strong_induction_on generalizing s with
  | _ n ih =>
    rcases h n s hs with hg | ⟨m, hm, hp⟩
    · exact ⟨1, by omega, hg⟩
    · obtain ⟨j, hj, hg⟩ := ih m hm hp
      exact ⟨j + 1, by omega, hg⟩

theorem consumerRun_eq_iterate (k n : Nat) (s : State) : consumerRun k n s = (consumerStep k)^[n] s := by
  induction n generalizing s with
  | zero => rfl
  | succ n ih => exact ih _

theorem issRun_eq_iterate (c n : Nat) (s : State) : issRun c n s = (issStep c)^[n] s := by
  induction n generalizing s with
  | zero => rfl
  | succ n ih => exact ih _

/-- Consumer `k`'s command `i` holds the lock of its chip, `left` steps before the end `hi` of a hold
that starts at `lo`. -/
structure ConsumerHolds (lock : Chip → Option Holder) (k : Nat) (i : Instr) (lo hi left : Nat)
    (s : State) : Prop where
  present : s.present i.chipField = true
  hold : HoldsUntil lock (.consumer k) (programOf k (s.irqMode i.chipField) i) lo hi
  locked : lock (s.chip i.chipField) = some (.consumer k)
  stands : ∃ r, s.flight k = some r ∧ commandOf r = some i ∧ lo ≤ r.upc.toNat ∧
    r.upc.toNat + left = hi

theorem ConsumerHolds.step {lock : Chip → Option Holder} {k : Nat} {i : Instr} {lo hi left : Nat}
    {s : State} (h : ConsumerHolds lock k i lo hi left s) :
    lock ((consumerStep k s).chip i.chipField) = none ∨
      ∃ left', left' < left ∧ ConsumerHolds lock k i lo hi left' (consumerStep k s) := by
  obtain ⟨hp, hhold, hl, r, hr, hcmd, hlo, hleft⟩ := h
  have hnear := hhold r.upc.toNat r.tmp _ hlo (by omega) hl
  cases hm : programOf k (s.irqMode i.chipField) i r.upc.toNat r.tmp (s.chip i.chipField) with
  | wait =>
    rw [hm] at hnear
    exact hnear.elim
  | respond st v ch =>
    rw [hm] at hnear
    rw [consumerStep_of_respond hr hcmd hp hm]
    exact .inl ((congrArg lock (chip_setChip_present s _ ch hp)).trans hnear)
  | goto u tmp ch =>
    rw [hm] at hnear
    have hchip := congrArg lock (settle_waiting_chip k r.word u tmp ch hp)
    have hu := upc_toNat_of_stepOf (programOf_goto_stepOf hm)
    rw [consumerStep_of_goto hr hcmd hp hm]
    rcases hnear with hfree | ⟨hkeep, hlt, hle⟩
    · exact .inl (hchip.trans hfree)
    · refine .inr ⟨hi - u, by omega, hp, hhold, hchip.trans hkeep, _,
        settle_waiting_flight k _ _ u tmp ch s, hcmd, ?_⟩
      rw [hu]
      omega

/-- A consumer that holds the lock of a present chip, and whose command stands in a hold of it, frees it
within the hold's length of its own steps (R217). -/
theorem consumerRun_frees {lock : Chip → Option Holder} {held : Bool → Instr → Nat → Bool}
    {bound c k : Nat} {s : State}
    (hheld : ∀ m i u, held m i u = true → StandsInHold lock (.consumer k) (programOf k m i) bound u)
    (hp : s.present c = true) (hl : lock (s.chip c) = some (.consumer k))
    (hstands : commandStands held s c k) :
    ∃ n, n ≤ bound ∧ lock ((consumerRun k n s).chip c) = none := by
  obtain ⟨r, i, hr, hcmd, rfl, hu⟩ := hstands
  obtain ⟨lo, hi, hlo, hhi, hbound, hhold⟩ := hheld _ _ _ hu
  have hstart : ConsumerHolds lock k i lo hi (hi - r.upc.toNat) s :=
    ⟨hp, hhold, hl, r, hr, hcmd, hlo, by omega⟩
  obtain ⟨n, hn, hfree⟩ := exists_iterate_of_rank
    (G := fun t => lock (t.chip i.chipField) = none) (fun _ _ => ConsumerHolds.step) hstart
  exact ⟨n, by omega, consumerRun_eq_iterate k n s ▸ hfree⟩

/-- The sequencer of chip `c` holds the lock, `left` steps before the end `hi` of a hold that starts at
`lo`. -/
structure IssHolds (lock : Chip → Option Holder) (c lo hi left : Nat) (s : State) : Prop where
  irqMode : s.irqMode c = true
  locked : lock (s.chip c) = some .iss
  stands : lo ≤ (s.chip c).iss.upc.toNat ∧ (s.chip c).iss.upc.toNat + left = hi

theorem issStep_of_goto {c u : Nat} {s : State} {tmp : Temps} {ch : Chip} (hi : s.irqMode c = true)
    (hm : progIss c (s.chip c).iss.upc.toNat (s.chip c).iss.tmp (s.chip c) = .goto u tmp ch) :
    issStep c s = s.setChip c { ch with iss := ⟨BitVec.ofNat 6 u, tmp⟩ } := by
  simp [issStep, issMicro, hi, hm]

/-- The sequencer answers no one (R215). -/
theorem progIss_never_responds (c u : Nat) (tmp : Temps) (ch : Chip) :
    Leads (fun _ _ _ => True) (fun _ => False) (progIss c u tmp ch) := by
  unfold progIss
  split
  · split
    · exact leads_acquireW fun _ => trivial
    · trivial
  · split
    · exact leads_acquireW fun _ => trivial
    · trivial
  · refine leads_releaseW fun _ => ?_
    split <;> trivial
  · exact leads_acquireQ fun _ => trivial
  · trivial
  · exact leads_releaseQ fun _ => trivial
  · exact leads_service fun _ _ _ _ _ _ _ _ => trivial

theorem IssHolds.step {lock : Chip → Option Holder} {c lo hi left : Nat} {s : State}
    (hiss : ∀ ch x, lock { ch with iss := x } = lock ch)
    (hhold : HoldsUntil lock .iss (progIss c) lo hi) (h : IssHolds lock c lo hi left s) :
    lock ((issStep c s).chip c) = none ∨
      ∃ left', left' < left ∧ IssHolds lock c lo hi left' (issStep c s) := by
  obtain ⟨hirq, hl, hlo, hleft⟩ := h
  have hnear := hhold _ (s.chip c).iss.tmp _ hlo (by omega) hl
  have hsilent := progIss_never_responds c (s.chip c).iss.upc.toNat (s.chip c).iss.tmp (s.chip c)
  have hlast := meets_progIss chipInvariant_true c (s.chip c).iss.upc.toNat (s.chip c).iss.tmp
    (ch := s.chip c) trivial
  cases hm : progIss c (s.chip c).iss.upc.toNat (s.chip c).iss.tmp (s.chip c) with
  | wait =>
    rw [hm] at hnear
    exact hnear.elim
  | respond st v ch =>
    rw [hm] at hsilent
    exact hsilent.elim
  | goto u tmp ch =>
    rw [hm] at hnear hlast
    have hchip := chip_setChip_present s c { ch with iss := ⟨BitVec.ofNat 6 u, tmp⟩ }
      (present_of_irqMode hirq)
    have hlock := (congrArg lock hchip).trans (hiss ch _)
    rw [issStep_of_goto hirq hm]
    rcases hnear with hfree | ⟨hkeep, hlt, hle⟩
    · exact .inl (hlock.trans hfree)
    · refine .inr ⟨hi - u, by omega, hirq, hlock.trans hkeep, ?_⟩
      rw [hchip, upc_toNat (hlast.1.trans (by decide))]
      omega

/-- A sequencer that holds the lock of its chip, and stands in a hold of it, frees it within the hold's
length of its own steps (R217). -/
theorem issRun_frees {lock : Chip → Option Holder} {bound c : Nat} {s : State}
    (hiss : ∀ ch x, lock { ch with iss := x } = lock ch) (hirq : s.irqMode c = true)
    (hl : lock (s.chip c) = some .iss)
    (hstands : StandsInHold lock .iss (progIss c) bound (s.chip c).iss.upc.toNat) :
    ∃ n, n ≤ bound ∧ lock ((issRun c n s).chip c) = none := by
  obtain ⟨lo, hi, hlo, hhi, hbound, hhold⟩ := hstands
  have hstart : IssHolds lock c lo hi (hi - (s.chip c).iss.upc.toNat) s :=
    ⟨hirq, hl, hlo, by omega⟩
  obtain ⟨n, hn, hfree⟩ := exists_iterate_of_rank
    (G := fun t => lock (t.chip c) = none) (fun _ _ => IssHolds.step hiss hhold) hstart
  exact ⟨n, by omega, issRun_eq_iterate c n s ▸ hfree⟩

/-- Settles O54: by the lock discipline the holder stands in a hold of the lock, no step of which waits
or leads back; the longest hold of the window is a service of 16 steps, of the queue lock two steps. -/
theorem lockHoldsAreBounded : Obligations.LockHoldsAreBounded := by
  intro s c k hlocks hp
  obtain ⟨hwindow, hwindowIss, hqueue, hqueueIss⟩ := hlocks c hp
  refine ⟨fun hl => ?_, fun hl => ?_, fun hl => ?_, fun hl => ?_⟩
  · exact consumerRun_frees (fun _ _ _ => standsInHold_of_holdsWindow k) hp hl ((hwindow k).mp hl)
  · exact consumerRun_frees (fun _ _ _ => standsInHold_of_holdsQueue k) hp hl ((hqueue k).mp hl)
  · obtain ⟨hirq, hu⟩ := hwindowIss.mp hl
    exact issRun_frees (fun _ _ => rfl) hirq hl ((progIss_holdsWindow c).stands hu (by decide))
  · obtain ⟨hirq, hu⟩ := hqueueIss.mp hl
    exact issRun_frees (fun _ _ => rfl) hirq hl ((progIss_holdsQueue c).stands hu (by decide))

end Sys2Proof.Proofs
end

section
/-! ## Encoding: decoder, encoder and opcode map agree on every word (R91, R92, R96, R99, R100)

Decoder and opcode map are each compared with one reading of R91 and R99 through the fields of the word,
`FieldsLegal`. -/

namespace Sys2Proof.Proofs

/-- Settles O1: the word's fields are the command's opcode and operands, from which the decoder builds
the command again. -/
theorem decodeUndoesEncode : Obligations.DecodeUndoesEncode :=
  decode_encode

theorem chipOf_lt (w : CmdWord) : chipOf w < 8 := (w.extractLsb' 16 3).isLt

theorem indexOf_lt (w : CmdWord) : indexOf w < 64 := (w.extractLsb' 8 6).isLt

/-- The operands of a decoded command are fields of a word, so they fit. -/
theorem wellFormed_of_decode {w : CmdWord} {i : Instr} (h : decode w = .ok i) : WellFormed i := by
  obtain ⟨-, -, hc, hx, -⟩ := fields_of_decode h
  exact ⟨hc ▸ chipOf_lt w, hx ▸ indexOf_lt w⟩

/-- Settles O2: a word that decodes is the sum of its fields, which are those of the command. -/
theorem encodeUndoesDecode : Obligations.EncodeUndoesDecode :=
  fun _ _ h => ⟨wellFormed_of_decode h, encode_of_decode h⟩

/-- Settles O4: the decoder computes on each of the six words. -/
theorem sampleWordsDecode : Obligations.SampleWordsDecode :=
  ⟨rfl, rfl, rfl, rfl, rfl, rfl⟩

/-! ### The fields of a legal word -/

/-- The reserved bits are zero, the opcode is one of a format, and the fields that the format does not use
are zero (R91, R96, R99). -/
def FieldsLegal (w : CmdWord) : Prop :=
  reservedZero w = true ∧
    (opcodeOf w ∈ [2, 4, 7] ∨
      opcodeOf w ∈ [1, 3, 5, 6, 8, 9, 12, 13, 14] ∧ dataOf w = 0 ∨
      opcodeOf w ∈ [10, 11] ∧ indexOf w = 0 ∧ dataOf w = 0)

theorem exists_formatIndexData_ok {w : CmdWord} {mk : Nat → Nat → Byte → Instr} :
    (∃ i, formatIndexData w mk = .ok i) ↔ reservedZero w = true :=
  ⟨fun ⟨_, h⟩ => (formatIndexData_ok h).1, fun h => ⟨_, by rw [formatIndexData, if_pos h]⟩⟩

theorem exists_formatIndex_ok {w : CmdWord} {mk : Nat → Nat → Instr} :
    (∃ i, formatIndex w mk = .ok i) ↔ reservedZero w = true ∧ dataOf w = 0 := by
  constructor
  · rintro ⟨_, h⟩
    obtain ⟨hr, hv, -⟩ := formatIndex_ok h
    exact ⟨hr, hv⟩
  · rintro ⟨hr, hv⟩
    exact ⟨_, by rw [formatIndex, if_pos hr, if_pos hv]⟩

theorem exists_formatChip_ok {w : CmdWord} {mk : Nat → Instr} :
    (∃ i, formatChip w mk = .ok i) ↔ reservedZero w = true ∧ indexOf w = 0 ∧ dataOf w = 0 := by
  constructor
  · rintro ⟨_, h⟩
    obtain ⟨hr, hxv, -⟩ := formatChip_ok h
    exact ⟨hr, hxv⟩
  · rintro ⟨hr, hxv⟩
    exact ⟨_, by rw [formatChip, if_pos hr, if_pos hxv]⟩

theorem exists_decode_ok_iff_fieldsLegal (w : CmdWord) :
    (∃ i, decode w = .ok i) ↔ FieldsLegal w := by
  unfold decode FieldsLegal
  split <;> rename_i hop
  case h_2 | h_4 | h_7 => simp [hop, exists_formatIndexData_ok]
  case h_10 | h_11 => simp [hop, exists_formatChip_ok]
  case h_15 => exact iff_of_false (by simp) (by rintro ⟨-, hlegal⟩; simp_all)
  all_goals simp [hop, exists_formatIndex_ok]

/-! ### The fields of a word that a row of the map selects -/

/-- A word is known by its six fields (R90). -/
theorem cmdWord_eq_iff_fields {v w : CmdWord} :
    v = w ↔ v.extractLsb' 20 4 = w.extractLsb' 20 4 ∧ v.extractLsb' 19 1 = w.extractLsb' 19 1 ∧
      v.extractLsb' 16 3 = w.extractLsb' 16 3 ∧ v.extractLsb' 14 2 = w.extractLsb' 14 2 ∧
      v.extractLsb' 8 6 = w.extractLsb' 8 6 ∧ v.extractLsb' 0 8 = w.extractLsb' 0 8 := by
  simp only [← BitVec.toNat_inj, BitVec.extractLsb'_toNat, Nat.shiftRight_eq_div_pow]
  have hv := v.isLt
  have hw := w.isLt
  omega

theorem opcodeOf_eq_toNat {w : CmdWord} {op : BitVec 4} :
    opcodeOf w = op.toNat ↔ w.extractLsb' 20 4 = op :=
  BitVec.toNat_inj

theorem indexOf_eq_zero {w : CmdWord} : indexOf w = 0 ↔ w.extractLsb' 8 6 = 0#6 :=
  BitVec.toNat_inj (y := 0#6)

/-- The match word of opcode `op`: the other fields are zero (R96). -/
def matchOf (op : BitVec 4) : CmdWord := op ++ 0#20

theorem matchOf_opcode (op : BitVec 4) : (matchOf op).extractLsb' 20 4 = op :=
  BitVec.extractLsb'_append_eq_left

theorem matchOf_below (op : BitVec 4) {start len : Nat} (h : start + len ≤ 20) :
    (matchOf op).extractLsb' start len = 0#len :=
  (BitVec.extractLsb'_append_eq_of_add_le h).trans BitVec.extractLsb'_zero

/-- A mask that has the opcode and the reserved bits and not the `chip` field selects the words with the
row's opcode whose `index` and `data` are zero where the mask has them (R91, R96). -/
theorem selects_matchOf {mask w : CmdWord} {op : BitVec 4}
    (hop : mask.extractLsb' 20 4 = .allOnes 4) (hrsv1 : mask.extractLsb' 19 1 = .allOnes 1)
    (hchip : mask.extractLsb' 16 3 = 0#3) (hrsv2 : mask.extractLsb' 14 2 = .allOnes 2) :
    (Row.mk (matchOf op) mask).selects w = true ↔ reservedZero w = true ∧ opcodeOf w = op.toNat ∧
      w.extractLsb' 8 6 &&& mask.extractLsb' 8 6 = 0#6 ∧ dataOf w &&& mask.extractLsb' 0 8 = 0#8 := by
  rw [opcodeOf_eq_toNat, Row.selects, beq_iff_eq, cmdWord_eq_iff_fields]
  simp only [BitVec.extractLsb'_and, hop, hrsv1, hchip, hrsv2, BitVec.and_allOnes, BitVec.and_zero,
    matchOf_opcode, matchOf_below, Nat.reduceAdd, Nat.reduceLeDiff,
    reservedZero, dataOf, Bool.and_eq_true, beq_iff_eq]
  tauto

/-- The row of a command of format PD or BD: `index` and `data` are free (R91). -/
def rowIndexData (op : BitVec 4) : Row := ⟨matchOf op, 0xF8C000⟩

/-- The row of a command of format P or B: `data` is zero (R91). -/
def rowIndex (op : BitVec 4) : Row := ⟨matchOf op, 0xF8C0FF⟩

/-- The row of a command of format C: `index` and `data` are zero (R91). -/
def rowChip (op : BitVec 4) : Row := ⟨matchOf op, 0xF8FFFF⟩

theorem rowIndexData_selects {op : BitVec 4} {w : CmdWord} :
    (rowIndexData op).selects w = true ↔ reservedZero w = true ∧ opcodeOf w = op.toNat := by
  rw [rowIndexData, selects_matchOf (by decide) (by decide) (by decide) (by decide)]
  simp

theorem rowIndex_selects {op : BitVec 4} {w : CmdWord} :
    (rowIndex op).selects w = true ↔
      reservedZero w = true ∧ opcodeOf w = op.toNat ∧ dataOf w = 0 := by
  have hdata : (0xF8C0FF : CmdWord).extractLsb' 0 8 = .allOnes 8 := by decide
  rw [rowIndex, selects_matchOf (by decide) (by decide) (by decide) (by decide), hdata,
    BitVec.and_allOnes]
  simp

theorem rowChip_selects {op : BitVec 4} {w : CmdWord} :
    (rowChip op).selects w = true ↔
      reservedZero w = true ∧ opcodeOf w = op.toNat ∧ indexOf w = 0 ∧ dataOf w = 0 := by
  have hindex : (0xF8FFFF : CmdWord).extractLsb' 8 6 = .allOnes 6 := by decide
  have hdata : (0xF8FFFF : CmdWord).extractLsb' 0 8 = .allOnes 8 := by decide
  rw [rowChip, selects_matchOf (by decide) (by decide) (by decide) (by decide), hindex, hdata,
    BitVec.and_allOnes, BitVec.and_allOnes, indexOf_eq_zero]
  rfl

theorem opcodeMap_eq_rows :
    opcodeMap = [rowIndex 1, rowIndexData 2, rowIndex 3, rowIndexData 4, rowIndex 5, rowIndex 6,
      rowIndexData 7, rowIndex 8, rowIndex 9, rowChip 10, rowChip 11, rowIndex 12, rowIndex 13,
      rowIndex 14] := by
  decide

theorem legalWord_iff_fieldsLegal (w : CmdWord) : legalWord w = true ↔ FieldsLegal w := by
  simp only [legalWord, opcodeMap_eq_rows, List.any_cons, List.any_nil, Bool.or_eq_true,
    rowIndexData_selects, rowIndex_selects, rowChip_selects]
  simp only [FieldsLegal, List.mem_cons, List.not_mem_nil, BitVec.reduceToNat]
  grind

/-- Settles O3: the words that decode and the words that a row selects have the same fields. -/
theorem legalWordsAreTheMaps : Obligations.LegalWordsAreTheMaps := fun w =>
  (exists_decode_ok_iff_fieldsLegal w).trans (legalWord_iff_fieldsLegal w).symm

end Sys2Proof.Proofs
end

section
/-! ## The Register Paging Controller: READ_PORT, WRITE_PORT and SELECT (R123, R131 to R135)

WRITE_PORT and the three bit writes are one micro-program, `WritesThrough`: they differ in the byte they
write through. -/

namespace Sys2Proof.Proofs

open Sys2Proof.Machine Sys2Proof.Laws Sys2Proof.Safety

/-! ### SELECT -/

/-- Settles O34: the second step writes back the lock bits that the first has read. -/
theorem selectKeepsLockBits : Obligations.SelectKeepsLockBits := by
  intro ch c n n' pg tmp tmp1 ch1 hread
  rw [selectRead_effect] at hread
  cases hread
  exact ⟨_, selectWrite_effect ch.page pg ch.lock n' _ ch rfl⟩

/-! ### READ_PORT -/

/-- READ_PORT answers what one bus read of the offset gives, under any locks (R131). -/
theorem exec_readPort {s : State} {c off : Nat} (hr : Ready s c) (hoff : off ≤ 7) :
    exec (.readPort c off) s =
      .next ((s.setChip c (afterRead off (s.chip c))).deliver s.cur .ok (ioRead c off (s.chip c))) :=
  command_answers (.readPort c off) (progReadPort c off) s _ _ _ hr.1 hr.2 (decide_eq_true hoff)
    (runProgram_respond _ _ _ _ _ _ _ _ rfl)

/-- Bit `i` of the pending summary says whether port `i` has a latch set (R33). -/
theorem pend_getLsbD (ch : Chip) {i : Nat} (hi : i < 3) :
    (pend ch).getLsbD i = (bankRead ch.intId i 0 != 0) := by
  have hbits : ∀ (f : Fin 3 → Bool) (j : Fin 3),
      (BitVec.ofBool (f 2) ++ BitVec.ofBool (f 1) ++ BitVec.ofBool (f 0)).getLsbD j = f j := by decide
  exact hbits (fun j => pendBit ch j) ⟨i, hi⟩

/-- Settles O13: at each offset the answer is the bus read of R120; only the one of offset 6 draws a free
value, which the low three bits do not depend on. -/
theorem readPortAnswersRegister : Obligations.ReadPortAnswersRegister := by
  intro s c hr ch
  refine ⟨fun p hp => ?_, ?_, _, _, fun i hi => ?_, exec_readPort hr (by decide)⟩
  · rw [exec_readPort hr (by omega), afterRead_port p _ hp, ioRead_port c p _ hp, setChip_chip]
    rfl
  · rw [exec_readPort hr (by decide), afterRead_pageLock, ioRead_pageLock, setChip_chip]
  · rw [ioRead_pending, BitVec.getLsbD_append, if_pos hi]
    exact pend_getLsbD ch hi

/-! ### Writing through -/

/-- Locks are enforced (R29, log entry 7), so a set lock bit protects its port. -/
theorem portLocked_eq (ch : Chip) (p : Nat) : portLocked ch p = ch.lock.getLsbD p := rfl

/-- A locked data port discards the write, and the image is not written either (R133, R134). -/
theorem writeThrough_of_locked {p : Nat} (v : Byte) {ch : Chip} (hp : p ≤ 5)
    (hl : ch.lock.getLsbD p = true) : writeThrough p v ch = ch := by
  simp [writeThrough, ioWrite_port p v _ hp, outWrite, portLocked_eq, hl]

/-- An unlocked data port and its image take the byte, and the edges it makes are latched (R135, R173). -/
theorem writeThrough_of_unlocked {p : Nat} (v : Byte) {ch : Chip} (hp : p ≤ 5)
    (hl : ch.lock.getLsbD p = false) :
    writeThrough p v ch =
      { ch with
        out := bankWrite ch.out p v
        img := bankWrite ch.img p v
        intId :=
          if p ≤ 2 then
            bankWrite ch.intId p (bankRead ch.intId p 0 |||
              edges (bankRead ch.enab p 0) (bankRead ch.pol p 0) (line ch p)
                (v ||| bankRead ch.ext p 0))
          else ch.intId } := by
  rw [writeThrough, portLocked_eq, if_pos ⟨hp, hl⟩, ioWrite_port p v _ hp, outWrite, portLocked_img,
    portLocked_eq, hl, if_neg Bool.false_ne_true, captureIf]
  split <;> rfl

/-- A bus write neither reads nor writes the window's lock (R121). -/
theorem ioWrite_wlock (off : Nat) (v : Byte) (l : Option Holder) (ch : Chip) :
    ioWrite off v { ch with wlock := l } = { ioWrite off v ch with wlock := l } := by
  simp only [ioWrite, outWrite, captureIf, pagedWrite,
    apply_ite (fun ch : Chip => { ch with wlock := l })]
  rfl

/-- Nor does a write through to a port and its image (R133, R152). -/
theorem writeThrough_wlock (off : Nat) (v : Byte) (l : Option Holder) (ch : Chip) :
    writeThrough off v { ch with wlock := l } = { writeThrough off v ch with wlock := l } := by
  simp only [writeThrough, ← ioWrite_wlock, apply_ite (fun ch : Chip => { ch with wlock := l })]
  rfl

/-- The micro-program takes the window, writes a byte made from the image through to `off`, gives the
window back and answers OK (R133, R152). -/
structure WritesThrough (p : Program) (me : Holder) (off : Nat) (byte : Vector Byte 6 → Byte) :
    Prop where
  acquires : ∀ tmp ch, p 1 tmp ch = acquireW me 2 tmp ch
  writes : ∀ tmp ch, ∃ tmp', p 2 tmp ch = .goto 3 tmp' (writeThrough off (byte ch.img) ch)
  releases : ∀ tmp ch, p 3 tmp ch = releaseW me ch fun ch' => .respond .ok 0 ch'

theorem progWritePort_writesThrough (me : Holder) (off : Nat) (v : Byte) :
    WritesThrough (progWritePort me off v) me off fun _ => v :=
  ⟨fun _ _ => rfl, fun _ _ => ⟨_, rfl⟩, fun _ _ => rfl⟩

theorem progWriteBit_writesThrough (me : Holder) (b : Nat) (val : Bool) :
    WritesThrough (progWriteBit me b val) me (portOf b) fun img =>
      mergeMask val (bankRead img (portOf b) 0) (maskOf b) :=
  ⟨fun _ _ => rfl, fun _ _ => ⟨_, rfl⟩, fun _ _ => rfl⟩

section
variable {p : Program} {me : Holder} {off : Nat} {byte : Vector Byte 6 → Byte} {ch : Chip}

/-- With the window free it leaves what the write leaves, the window free again. -/
theorem WritesThrough.runProgram_free (hp : WritesThrough p me off byte) (hw : ch.wlock = none) :
    runProgram p longestProgram 1 {} ch = .answered .ok 0 (writeThrough off (byte ch.img) ch) := by
  have hacq : p 1 {} ch = .goto 2 {} { ch with wlock := some me } := by
    rw [hp.acquires, acquireW, if_pos hw]
  obtain ⟨tmp, hwrite⟩ := hp.writes {} { ch with wlock := some me }
  have hback : { writeThrough off (byte ch.img) ch with wlock := none } =
      writeThrough off (byte ch.img) ch := by
    rw [← writeThrough_wlock, ← hw]
  rw [writeThrough_wlock] at hwrite
  refine runProgram_reaches_respond (.step hacq (.single hwrite)) (by decide) ?_
  rw [hp.releases, releaseW, if_pos rfl, hback]

/-- With the window held it waits before its first step and leaves the chip as it is. -/
theorem WritesThrough.runProgram_held (hp : WritesThrough p me off byte) (hw : ch.wlock ≠ none) :
    runProgram p longestProgram 1 {} ch = .waiting 1 {} ch :=
  runProgram_wait _ _ _ _ _ (by rw [hp.acquires, acquireW, if_neg hw])

end

/-! ### WRITE_PORT -/

theorem exec_writePort {s : State} {c off : Nat} (v : Byte) (hr : Ready s c) (hoff : off ≤ 7)
    (hw : (s.chip c).wlock = none) :
    exec (.writePort c off v) s =
      .next ((s.setChip c (writeThrough off v (s.chip c))).deliver s.cur .ok 0) :=
  command_answers (.writePort c off v) _ s _ _ _ hr.1 hr.2 (decide_eq_true hoff)
    ((progWritePort_writesThrough (.consumer s.cur) off v).runProgram_free hw)

/-- Settles O14: the latches that `edges` names are those of the enabled bits with an edge. -/
theorem writePortWritesDataPort : Obligations.WritePortWritesDataPort := by
  intro s c p v hr hp hw hl ch old new en po latched
  rw [exec_writePort v hr (by omega) hw, writeThrough_of_unlocked v hp hl]
  rfl

/-- Settles O15: a locked port discards the write, offset 6 takes none, and offset 7 is replaced. -/
theorem writePortElsewhere : Obligations.WritePortElsewhere := by
  intro s c v hr hw
  refine ⟨fun p hp hl => ?_, ?_, exec_writePort v hr (by decide) hw⟩
  · rw [exec_writePort v hr (by omega) hw, writeThrough_of_locked v hp hl, setChip_chip]
  · have hpending : writeThrough 6 v (s.chip c) = s.chip c := rfl
    rw [exec_writePort v hr (by decide) hw, hpending, setChip_chip]

/-! ### The frame of the data-port writes -/

/-- The chips `a` and `b` differ at most in output register, image and latches of port `p`. -/
def SameBeyondPort (p : Nat) (a b : Chip) : Prop :=
  ∃ o m l, a = { b with out := o, img := m, intId := l } ∧
    ∀ q, q ≠ p → bankRead o q 0 = bankRead b.out q 0 ∧ bankRead m q 0 = bankRead b.img q 0 ∧
      bankRead l q 0 = bankRead b.intId q 0

theorem SameBeyondPort.refl (p : Nat) (ch : Chip) : SameBeyondPort p ch ch :=
  ⟨_, _, _, rfl, fun _ _ => ⟨rfl, rfl, rfl⟩⟩

theorem SameBeyondPort.buf {p : Nat} {a b : Chip} (h : SameBeyondPort p a b) : a.buf = b.buf := by
  obtain ⟨_, _, _, rfl, -⟩ := h
  rfl

theorem writeThrough_sameBeyondPort {p : Nat} (v : Byte) (ch : Chip) (hp : p ≤ 5) :
    SameBeyondPort p (writeThrough p v ch) ch := by
  cases hl : ch.lock.getLsbD p with
  | true =>
    rw [writeThrough_of_locked v hp hl]
    exact .refl p ch
  | false =>
    refine ⟨_, _, _, writeThrough_of_unlocked v hp hl, fun q hq =>
      ⟨bankRead_bankWrite_ne _ _ _ _ _ hq.symm, bankRead_bankWrite_ne _ _ _ _ _ hq.symm, ?_⟩⟩
    split
    · exact bankRead_bankWrite_ne _ _ _ _ _ hq.symm
    · rfl

/-- What a command that writes through leaves of its chip: the write's effect where the command is
accepted with the window free, else the chip as it was. -/
theorem chip_of_exec_writesThrough {s t : State} {i : Instr} {off : Nat} {byte : Vector Byte 6 → Byte}
    (hp : WritesThrough (programOf s.cur (s.irqMode i.chipField) i) (.consumer s.cur) off byte)
    (ht : exec i s = .next t) :
    t.chip i.chipField = s.chip i.chipField ∨
      (indexOk i = true ∧ t.chip i.chipField =
        writeThrough off (byte (s.chip i.chipField).img) (s.chip i.chipField)) := by
  rcases exec_cases i s with ⟨-, he⟩ | ⟨-, st, -, he⟩ | ⟨-, hi, he⟩ <;> rw [he] at ht <;> cases ht
  · exact .inl rfl
  · obtain ⟨hpres, hx⟩ := (issueFault_none i s).mp hi
    by_cases hw : (s.chip i.chipField).wlock = none
    · rw [hp.runProgram_free hw]
      exact .inr ⟨hx, chip_setChip_present s _ _ hpres⟩
    · rw [hp.runProgram_held hw]
      exact .inl (chip_setChip_present s _ _ hpres)

/-- The data-port writes and the port each writes through to. -/
theorem writesThrough_of_dataPortWrite {c p : Nat} {i : Instr}
    (h : (∃ v, i = .writePort c p v ∧ p ≤ 5) ∨
      (∃ b v, (i = .writeBit c b v ∨ i = .setBit c b ∨ i = .clrBit c b) ∧ p = (b - 1) / 8))
    (k : Nat) (m : Bool) :
    i.chipField = c ∧ (indexOk i = true → p ≤ 5) ∧
      ∃ byte, WritesThrough (programOf k m i) (.consumer k) p byte := by
  have hbit : ∀ b, (decide (1 ≤ b) && decide (b ≤ 48)) = true → portOf b ≤ 5 := fun b hb =>
    portOf_le_five (of_decide_eq_true (Bool.and_eq_true_iff.mp hb).2)
  obtain ⟨v, rfl, hp⟩ | ⟨b, v, rfl | rfl | rfl, rfl⟩ := h
  · exact ⟨rfl, fun _ => hp, _, progWritePort_writesThrough _ p v⟩
  · exact ⟨rfl, hbit b, _, progWriteBit_writesThrough _ b _⟩
  · exact ⟨rfl, hbit b, _, progWriteBit_writesThrough _ b _⟩
  · exact ⟨rfl, hbit b, _, progWriteBit_writesThrough _ b _⟩

/-- Settles O57: each of these commands leaves its chip as it was or with one byte written through to its
port. -/
theorem dataPortWritesFrame : Obligations.DataPortWritesFrame := by
  intro s t c p i hi ht
  suffices hframe : SameBeyondPort p (t.chip c) (s.chip c) from
    ⟨hframe, fun a => by rw [hframe.buf]⟩
  obtain ⟨rfl, hx, byte, hp⟩ := writesThrough_of_dataPortWrite hi s.cur (s.irqMode i.chipField)
  rcases chip_of_exec_writesThrough hp ht with hch | ⟨hok, hch⟩ <;> rw [hch]
  · exact .refl p _
  · exact writeThrough_sameBeyondPort _ _ (hx hok)

end Sys2Proof.Proofs
end

section
/-! ## The Bit/Port Image: READ_BIT, WRITE_BIT, SET_BIT and CLR_BIT (R151 to R155) -/

namespace Sys2Proof.Proofs

open Sys2Proof.Machine Sys2Proof.Laws Sys2Proof.Safety

/-! ### READ_BIT -/

/-- A bit widened to a byte is the byte 0 or 1 (R151). -/
theorem setWidth_ofBool (x : Bool) : (BitVec.ofBool x).setWidth 8 = if x then 1#8 else 0#8 := by
  cases x <;> rfl

/-- READ_BIT answers one bit of a line's byte, and the read leaves the chip as it is, under any
locks (R70, R151). -/
theorem exec_readBit {s : State} {c b : Nat} (hr : Ready s c) (h1 : 1 ≤ b) (h48 : b ≤ 48) :
    exec (.readBit c b) s =
      .next (s.deliver s.cur .ok
        (if (line (s.chip c) (portOf b)).getLsbD (posOf b) then 1 else 0)) := by
  have hport : portOf b ≤ 5 := portOf_le_five h48
  have hans := command_answers (.readBit c b) (progReadBit c b) s _ _ _ hr.1 hr.2
    (by simp [indexOk, h1, h48]) (runProgram_respond _ _ _ _ _ _ _ _ rfl)
  rwa [afterRead_port _ _ hport, ioRead_port _ _ _ hport, setChip_chip, setWidth_ofBool] at hans

/-- Settles O16: the level of a line is the or of its output register and its external input (R26). -/
theorem readBitAnswersLine : Obligations.ReadBitAnswersLine :=
  fun _ _ _ hr h1 h48 => exec_readBit hr h1 h48

/-! ### The bit writes -/

/-- A command whose micro-program is that of WRITE_BIT, with the window free, writes the image's
byte with the bit set or cleared through to the bit's port (R152). -/
theorem exec_of_progWriteBit {s : State} {i : Instr} {b : Nat} {on : Bool}
    (hprog : programOf s.cur (s.irqMode i.chipField) i = progWriteBit (.consumer s.cur) b on)
    (hr : Ready s i.chipField) (hx : indexOk i = true) (hw : (s.chip i.chipField).wlock = none) :
    exec i s =
      .next ((s.setChip i.chipField
        (writeThrough (portOf b)
          (mergeMask on (bankRead (s.chip i.chipField).img (portOf b) 0) (maskOf b))
          (s.chip i.chipField))).deliver s.cur .ok 0) := by
  rw [exec_eq_command, hprog]
  exact command_answers i _ s _ _ _ hr.1 hr.2 hx
    ((progWriteBit_writesThrough (.consumer s.cur) b on).runProgram_free hw)

/-- Settles O17: the three commands run one micro-program, and the byte it writes through is
discarded by a locked port and taken by an unlocked one. -/
theorem bitWritesMergeImage : Obligations.BitWritesMergeImage := by
  intro s c b v hr h1 h48 hw ch p m after
  have hrange : (decide (1 ≤ b) && decide (b ≤ 48)) = true := by simp [h1, h48]
  have hport : portOf b ≤ 5 := portOf_le_five h48
  have heffect : ∀ on : Bool,
      (s.setChip c
        (writeThrough (portOf b) (mergeMask on (bankRead ch.img (portOf b) 0) (maskOf b)) ch)).deliver
          s.cur .ok 0 = after on := by
    intro on
    cases hl : ch.lock.getLsbD (portOf b) with
    | true =>
      rw [writeThrough_of_locked _ hport hl, setChip_chip]
      exact congrArg (State.deliver · s.cur .ok 0) (if_pos hl).symm
    | false =>
      rw [writeThrough_of_unlocked _ hport hl]
      exact congrArg (State.deliver · s.cur .ok 0) (if_neg (ne_true_of_eq_false hl)).symm
  simp only [← heffect]
  exact ⟨exec_of_progWriteBit (i := .writeBit c b v) rfl hr hrange hw,
    exec_of_progWriteBit (i := .setBit c b) rfl hr hrange hw,
    exec_of_progWriteBit (i := .clrBit c b) rfl hr hrange hw⟩

end Sys2Proof.Proofs
end

section
/-! ## The detection hardware: edge capture, the paged registers, external lines (R172 to R176) -/

namespace Sys2Proof.Proofs

open Sys2Proof.Machine Sys2Proof.Laws Sys2Proof.Safety

/-! ### Edge capture -/

/-- A latch is set by the edge that the polarity of its enabled bit selects (R173). -/
theorem edges_getLsbD (en po old new : Byte) {j : Nat} (hj : j < 8) :
    (edges en po old new).getLsbD j =
      (en.getLsbD j && ((po.getLsbD j && !old.getLsbD j && new.getLsbD j) ||
        (!po.getLsbD j && old.getLsbD j && !new.getLsbD j))) := by
  simp [edges, hj, Bool.and_assoc]

/-- Where no line of an enabled bit changes, no latch is set (R176). -/
theorem edges_of_unchanged {en old new : Byte} (po : Byte) (h : en &&& (new ^^^ old) = 0) :
    edges en po old new = 0 := by
  ext j hj
  have hline : en[j] = true → new[j] = old[j] := by simpa using congrArg (·[j]) h
  cases hen : en[j] with
  | false => simp [edges, hen]
  | true => simp [edges, hen, hline hen]

/-- Settles O31: capture adds to the port's latches the edges of its enabled bits. -/
theorem captureLatchesQualifyingEdges : Obligations.CaptureLatchesQualifyingEdges := by
  intro ch i old new hi
  refine ⟨⟨_, rfl⟩, fun q hq => bankRead_bankWrite_ne _ _ _ _ _ hq.symm, fun j hj => ?_⟩
  rw [capture, bankRead_bankWrite_same _ _ _ _ (Nat.lt_succ_of_le hi), BitVec.getLsbD_or,
    edges_getLsbD _ _ _ _ hj]

/-- Capture of no edge leaves the chip as it is. -/
theorem captureIf_of_no_edge {p : Nat} {old new : Byte} {ch : Chip}
    (h : edges (bankRead ch.enab p 0) (bankRead ch.pol p 0) old new = 0) :
    captureIf p old new ch = ch := by
  have hlatch : bankRead ch.intId p 0 ||| 0 = bankRead ch.intId p 0 := BitVec.or_zero
  rcases captureIf_cases p old new ch with hc | hc <;> rw [hc]
  rw [capture, h, hlatch, bankWrite_bankRead]

/-! ### Bus writes -/

/-- A bus write to an enable register (R174). -/
theorem ioWrite_enab {i : Nat} (v : Byte) {ch : Chip} (hi : i ≤ 2) (h : ch.page = 2) :
    ioWrite (8 + i) v ch =
      { ch with
        enab := bankWrite ch.enab i v
        intId := bankWrite ch.intId i (bankRead ch.intId i 0 &&& v) } := by
  simp [ioWrite_paged i v ch hi, pagedWrite, h]

/-- A bus write to a polarity register (R176). -/
theorem ioWrite_pol {i : Nat} (v : Byte) {ch : Chip} (hi : i ≤ 2) (h : ch.page = 1) :
    ioWrite (8 + i) v ch = { ch with pol := bankWrite ch.pol i v } := by
  simp [ioWrite_paged i v ch hi, pagedWrite, h]

/-- A bus write to an interrupt-ID register, whatever the byte (R175). -/
theorem ioWrite_intId {i : Nat} (v : Byte) {ch : Chip} (hi : i ≤ 2) (h : ch.page = 3) :
    ioWrite (8 + i) v ch = { ch with intId := bankWrite ch.intId i 0 } := by
  simp [ioWrite_paged i v ch hi, pagedWrite, h]

/-- In page 0 the paged offsets take no write (R65, R121). -/
theorem ioWrite_unmapped {i : Nat} (v : Byte) {ch : Chip} (hi : i ≤ 2) (h : ch.page = 0) :
    ioWrite (8 + i) v ch = ch := by
  simp [ioWrite_paged i v ch hi, pagedWrite, h]

/-- A write to a data port that changes no line of an enabled bit sets no latch (R176). -/
theorem ioWrite_port_intId {p : Nat} {v : Byte} {ch : Chip} (hp : p ≤ 5)
    (h : bankRead ch.enab p 0 &&& ((v ||| bankRead ch.ext p 0) ^^^ line ch p) = 0) :
    (ioWrite p v ch).intId = ch.intId := by
  rw [ioWrite_port p v ch hp, outWrite]
  split
  · rfl
  · rw [captureIf_of_no_edge (ch := { ch with out := bankWrite ch.out p v })
      (edges_of_unchanged _ h)]

/-- Settles O32: the write masks the port's latches with the byte it stores. -/
theorem enableWriteClearsLatches : Obligations.EnableWriteClearsLatches := by
  intro ch i v hi hpage
  rw [ioWrite_enab v hi hpage]
  refine ⟨⟨_, rfl⟩, fun q hq => bankRead_bankWrite_ne _ _ _ _ _ hq.symm, fun j _ => ?_⟩
  rw [bankRead_bankWrite_same _ _ _ _ (Nat.lt_succ_of_le hi), BitVec.getLsbD_and]

/-- Settles O33: of the accesses named only the interrupt-ID write has latches in its effect. -/
theorem latchesChangeOnlyAsNamed : Obligations.LatchesChangeOnlyAsNamed := by
  intro ch v
  refine ⟨fun i hi hpage => ioWrite_intId v hi hpage, fun off => ?_, fun off hoff => ?_,
    fun i hi hpage => ?_, fun p hp h => ioWrite_port_intId hp h, fun i hi => pend_getLsbD ch hi,
    irq_eq_false_iff ch⟩
  · rcases afterRead_cases off ch with hr | hr <;> rw [hr]
  · rcases hoff with rfl | rfl
    · rw [ioWrite_pending]
    · rw [ioWrite_pageLock]
  · rcases hpage with hpage | hpage
    · rw [ioWrite_unmapped v hi hpage]
    · rw [ioWrite_pol v hi hpage]

/-! ### External lines -/

/-- The chip after a change of the external drive of port `p` (R172, R173). -/
theorem extWrite_eq (p : Nat) (v : Byte) (ch : Chip) :
    extWrite p v ch =
      { ch with
        ext := bankWrite ch.ext p v
        intId :=
          if p ≤ 2 then
            bankWrite ch.intId p (bankRead ch.intId p 0 |||
              edges (bankRead ch.enab p 0) (bankRead ch.pol p 0) (line ch p)
                (bankRead ch.out p 0 ||| v))
          else ch.intId } := by
  rw [extWrite, captureIf]
  split <;> rfl

theorem envSet_accepted {s : State} {c p : Nat} (v : Byte) (hp : s.present c = true) (h5 : p ≤ 5) :
    envSet c p v s = .next (s.setChip c (extWrite p v (s.chip c))) :=
  if_pos ⟨hp, h5⟩

/-- Settles O35: the planned move is `EnvSet`, which any lock leaves enabled. -/
theorem envSetDrivesLines : Obligations.EnvSetDrivesLines := by
  intro s c p v rest hl ha hpres hp ch old new en po set
  rw [step_planned hl ha, fire, envSet_accepted (s := { s with agenda := rest }) v hpres hp,
    extWrite_eq]
  rfl

end Sys2Proof.Proofs
end

section
/-! ## The Interrupt Management Unit: ENABLE_INT, DISABLE_INT, CLEAR_INT, CLEAR_INT_ID (R178 to R182)

The four commands have one shape, `WorksInWindow`: they differ in what they make of the chip. -/

namespace Sys2Proof.Proofs

open Sys2Proof.Machine Sys2Proof.Laws Sys2Proof.Safety

/-! ### Work under the window -/

/-- A micro-program that from step `u` takes the free window, works under it and then gives it back with
its answer, run long enough, answers and leaves the window free. -/
theorem runProgram_window {p : Program} {me : Holder} {u n last f : Nat} {tmp tmp' : Temps}
    {ch ch' : Chip} {v : Byte} (hacq : p u tmp ch = acquireW me (u + 1) tmp ch)
    (hw : ch.wlock = none)
    (hwork : Reaches p n (u + 1) tmp { ch with wlock := some me } last tmp'
      { ch' with wlock := some me })
    (hrel : p last tmp' { ch' with wlock := some me } =
      releaseW me { ch' with wlock := some me } fun x => .respond .ok v x)
    (hw' : ch'.wlock = none) (hf : n + 1 < f) :
    runProgram p f u tmp ch = .answered .ok v ch' := by
  have hstart : p u tmp ch = .goto (u + 1) tmp { ch with wlock := some me } := by
    rw [hacq, acquireW, if_pos hw]
  refine runProgram_reaches_respond (.step hstart hwork) hf ?_
  rw [hrel, releaseW, if_pos rfl]
  simp only [← hw']

/-- The micro-program takes the window, makes `effect` of the chip in `n` steps, gives the window back
and answers OK; what it does to the chip does not depend on the window's lock. -/
structure WorksInWindow (p : Program) (me : Holder) (n : Nat) (effect : Chip → Chip) : Prop where
  acquires : ∀ tmp ch, p 1 tmp ch = acquireW me 2 tmp ch
  works : ∀ tmp ch, ∃ t, Reaches p n 2 tmp ch (n + 2) { tmp with t := t } (effect ch)
  releases : ∀ tmp ch, p (n + 2) tmp ch = releaseW me ch fun ch' => .respond .ok 0 ch'
  wlock : ∀ l ch, effect { ch with wlock := l } = { effect ch with wlock := l }
  short : n + 1 < longestProgram

section
variable {p : Program} {me : Holder} {n : Nat} {effect : Chip → Chip} {ch : Chip}

theorem WorksInWindow.runProgram_free (hp : WorksInWindow p me n effect) (hw : ch.wlock = none) :
    runProgram p longestProgram 1 {} ch = .answered .ok 0 (effect ch) := by
  obtain ⟨t, hwork⟩ := hp.works {} { ch with wlock := some me }
  rw [hp.wlock] at hwork
  have hfree : (effect ch).wlock = none := (congrArg Chip.wlock (hp.wlock ch.wlock ch)).trans hw
  exact runProgram_window (hp.acquires _ _) hw hwork (hp.releases _ _) hfree hp.short

theorem WorksInWindow.runProgram_held (hp : WorksInWindow p me n effect) (hw : ch.wlock ≠ none) :
    runProgram p longestProgram 1 {} ch = .waiting 1 {} ch :=
  runProgram_wait _ _ _ _ _ (by rw [hp.acquires, acquireW, if_neg hw])

end

/-- Such a command, with the window free, makes its effect of the chip and answers OK. -/
theorem exec_of_worksInWindow {s : State} {i : Instr} {n : Nat} {effect : Chip → Chip}
    (hp : WorksInWindow (programOf s.cur (s.irqMode i.chipField) i) (.consumer s.cur) n effect)
    (hr : Ready s i.chipField) (hx : indexOk i = true) (hw : (s.chip i.chipField).wlock = none) :
    exec i s =
      .next ((s.setChip i.chipField (effect (s.chip i.chipField))).deliver s.cur .ok 0) := by
  rw [exec_eq_command]
  exact command_answers i _ s _ _ _ hr.1 hr.2 hx (hp.runProgram_free hw)

/-- What such a command leaves of its chip: its effect where the command is accepted with the window
free, else the chip as it was. -/
theorem chip_of_exec_worksInWindow {s t : State} {i : Instr} {n : Nat} {effect : Chip → Chip}
    (hp : indexOk i = true →
      WorksInWindow (programOf s.cur (s.irqMode i.chipField) i) (.consumer s.cur) n effect)
    (ht : exec i s = .next t) :
    t.chip i.chipField = s.chip i.chipField ∨
      t.chip i.chipField = effect (s.chip i.chipField) := by
  rcases exec_cases i s with ⟨-, he⟩ | ⟨-, st, -, he⟩ | ⟨-, hi, he⟩ <;> rw [he] at ht <;> cases ht
  · exact .inl rfl
  · obtain ⟨hpres, hx⟩ := (issueFault_none i s).mp hi
    by_cases hw : (s.chip i.chipField).wlock = none
    · rw [(hp hx).runProgram_free hw]
      exact .inr (chip_setChip_present s _ _ hpres)
    · rw [(hp hx).runProgram_held hw]
      exact .inl (chip_setChip_present s _ _ hpres)

/-! ### What each command makes of the chip -/

/-- ENABLE_INT: the bit enabled, its polarity as asked, the idle page selected (R178). -/
def armed (b : Nat) (rising : Bool) (ch : Chip) : Chip :=
  { ch with
    page := Config.idlePage
    enab := bankWrite ch.enab (portOf b) (bankRead ch.enab (portOf b) 0 ||| maskOf b)
    pol := bankWrite ch.pol (portOf b) (mergeMask rising (bankRead ch.pol (portOf b) 0) (maskOf b))
    intId := bankWrite ch.intId (portOf b)
      (bankRead ch.intId (portOf b) 0 &&& (bankRead ch.enab (portOf b) 0 ||| maskOf b)) }

/-- DISABLE_INT: the bit disabled and unlatched, the idle page selected (R179). -/
def disarmed (b : Nat) (ch : Chip) : Chip :=
  { ch with
    page := Config.idlePage
    enab := bankWrite ch.enab (portOf b) (bankRead ch.enab (portOf b) 0 &&& ~~~maskOf b)
    intId := bankWrite ch.intId (portOf b)
      (bankRead ch.intId (portOf b) 0 &&& (bankRead ch.enab (portOf b) 0 &&& ~~~maskOf b)) }

/-- CLEAR_INT_ID: no latch of the port set, the idle page selected (R182). -/
def unlatched (p : Nat) (ch : Chip) : Chip :=
  { ch with page := Config.idlePage, intId := bankWrite ch.intId p 0 }

/-- A bus read of a polarity register (R64, R120). -/
theorem readTo_pol (c : Nat) {i : Nat} (n : Nat) (tmp : Temps) {ch : Chip} (hi : i ≤ 2)
    (h : ch.page = 1) :
    readTo c (8 + i) n tmp ch = .goto n { tmp with t := bankRead ch.pol i 0 } ch := by
  rw [readTo, ioRead_paged c i ch hi, afterRead_paged i ch hi (by rw [h]; decide)]
  simp [pagedRead, h]

theorem writeFrom_pol {i : Nat} (v : Byte) (n : Nat) (tmp : Temps) {ch : Chip} (hi : i ≤ 2)
    (h : ch.page = 1) :
    writeFrom (8 + i) v n tmp ch = .goto n tmp { ch with pol := bankWrite ch.pol i v } := by
  rw [writeFrom, ioWrite_pol v hi h]

theorem writeFrom_intId {i : Nat} (v : Byte) (n : Nat) (tmp : Temps) {ch : Chip} (hi : i ≤ 2)
    (h : ch.page = 3) :
    writeFrom (8 + i) v n tmp ch = .goto n tmp { ch with intId := bankWrite ch.intId i 0 } := by
  rw [writeFrom, ioWrite_intId v hi h]

section
variable (me : Holder) (c : Nat) {b : Nat}

theorem progEnableInt_works (rising : Bool) (hb : portOf b ≤ 2) :
    WorksInWindow (progEnableInt me c b rising) me 10 (armed b rising) where
  acquires _ _ := rfl
  releases _ _ := rfl
  wlock _ _ := rfl
  short := by decide
  works tmp ch := by
    obtain ⟨t₁, hsel⟩ := reaches_select (p := progEnableInt me c b rising) (u := 2) (n' := 4)
      (tmp := tmp) (ch := ch) (pg := 2) rfl fun _ => rfl
    obtain ⟨t₂, hsel'⟩ := reaches_select (p := progEnableInt me c b rising) (u := 6) (n' := 8)
      (tmp := { tmp with t := bankRead ch.enab (portOf b) 0 }) (pg := 1) rfl fun _ => rfl
    obtain ⟨t₃, hidle⟩ := reaches_select (p := progEnableInt me c b rising) (u := 10) (n' := 12)
      (tmp := { tmp with t := bankRead ch.pol (portOf b) 0 }) (pg := Config.idlePage) rfl fun _ => rfl
    exact ⟨t₃, (((hsel.trans (.step (readTo_enab c 5 _ hb rfl)
      (.single (writeFrom_enab _ 6 _ hb rfl)))).trans hsel').trans
        (.step (readTo_pol c 9 _ hb rfl) (.single (writeFrom_pol _ 10 _ hb rfl)))).trans hidle⟩

theorem progDisableInt_works (hb : portOf b ≤ 2) :
    WorksInWindow (progDisableInt me c b) me 6 (disarmed b) where
  acquires _ _ := rfl
  releases _ _ := rfl
  wlock _ _ := rfl
  short := by decide
  works tmp ch := by
    obtain ⟨t₁, hsel⟩ := reaches_select (p := progDisableInt me c b) (u := 2) (n' := 4)
      (tmp := tmp) (ch := ch) (pg := 2) rfl fun _ => rfl
    obtain ⟨t₂, hidle⟩ := reaches_select (p := progDisableInt me c b) (u := 6) (n' := 8)
      (tmp := { tmp with t := bankRead ch.enab (portOf b) 0 }) (pg := Config.idlePage) rfl fun _ => rfl
    exact ⟨t₂, (hsel.trans (.step (readTo_enab c 5 _ hb rfl)
      (.single (writeFrom_enab _ 6 _ hb rfl)))).trans hidle⟩

theorem progClearInt_works (hb : portOf b ≤ 2) :
    WorksInWindow (progClearInt me c b) me 7 (pulsed b) where
  acquires _ _ := rfl
  releases _ _ := rfl
  wlock _ _ := rfl
  short := by decide
  works tmp ch := reaches_clearPulse hb fun d t ch' hd => by interval_cases d <;> rfl

theorem progClearIntId_works {p : Nat} (hp : p ≤ 2) :
    WorksInWindow (progClearIntId me c p) me 5 (unlatched p) where
  acquires _ _ := rfl
  releases _ _ := rfl
  wlock _ _ := rfl
  short := by decide
  works tmp ch := by
    obtain ⟨t₁, hsel⟩ := reaches_select (p := progClearIntId me c p) (u := 2) (n' := 4)
      (tmp := tmp) (ch := ch) (pg := 3) rfl fun _ => rfl
    obtain ⟨t₂, hidle⟩ := reaches_select (p := progClearIntId me c p) (u := 5) (n' := 7)
      (tmp := { tmp with t := t₁ }) (pg := Config.idlePage) rfl fun _ => rfl
    exact ⟨t₂, (hsel.trans (.single (writeFrom_intId _ 5 _ hp rfl))).trans hidle⟩

end

/-! ### With no latch of a disabled bit set (R31, R35) -/

section
variable {l e : Byte}

/-- Latches of enabled bits lie within the enable byte. -/
theorem latches_and_enab (h : l &&& ~~~e = 0) : l &&& e = l := by
  ext n hn
  have hbit : l[n] = true → e[n] = true := by simpa using congrArg (·[n]) h
  simpa using hbit

/-- Enabling more bits clears none of them. -/
theorem latches_and_enab_or (m : Byte) (h : l &&& ~~~e = 0) : l &&& (e ||| m) = l := by
  rw [BitVec.and_or_distrib_left, latches_and_enab h]
  ext n hn
  simpa using fun hl _ => hl

/-- Disabling bits clears those of the bits disabled. -/
theorem latches_and_enab_not (m : Byte) (h : l &&& ~~~e = 0) :
    l &&& (e &&& ~~~m) = l &&& ~~~m := by
  rw [← BitVec.and_assoc, latches_and_enab h]

end

section
variable {b : Nat} {ch : Chip} (hb : portOf b ≤ 2) (hen : LatchesEnabled ch)
include hb hen

theorem armed_eq (rising : Bool) :
    armed b rising ch =
      { ch with
        page := 0
        enab := bankWrite ch.enab (portOf b) (bankRead ch.enab (portOf b) 0 ||| maskOf b)
        pol := bankWrite ch.pol (portOf b)
          (mergeMask rising (bankRead ch.pol (portOf b) 0) (maskOf b)) } := by
  rw [armed, latches_and_enab_or _ (hen _ (Nat.lt_succ_of_le hb)), bankWrite_bankRead]
  rfl

theorem disarmed_eq :
    disarmed b ch =
      { ch with
        page := 0
        enab := bankWrite ch.enab (portOf b) (bankRead ch.enab (portOf b) 0 &&& ~~~maskOf b)
        intId := bankWrite ch.intId (portOf b) (bankRead ch.intId (portOf b) 0 &&& ~~~maskOf b) } := by
  rw [disarmed, latches_and_enab_not _ (hen _ (Nat.lt_succ_of_le hb))]
  rfl

theorem pulsed_eq :
    pulsed b ch =
      { ch with
        page := 0
        enab := bankWrite ch.enab (portOf b) (bankRead ch.enab (portOf b) 0 ||| maskOf b)
        intId := bankWrite ch.intId (portOf b) (bankRead ch.intId (portOf b) 0 &&& ~~~maskOf b) } := by
  have hlatches := hen _ (Nat.lt_succ_of_le hb)
  rw [pulsed, latches_and_enab_not _ hlatches, BitVec.and_assoc, BitVec.and_comm (~~~maskOf b),
    ← BitVec.and_assoc, latches_and_enab_or _ hlatches]
  rfl

end

/-- The operand `data` sets the bit where it is not 0, else it clears it (R95, R178). -/
theorem mergeMask_truthOf (data x m : Byte) :
    mergeMask (truthOf data) x m = if data ≠ 0 then x ||| m else x &&& ~~~m := by
  by_cases h : data = 0 <;> simp [mergeMask, truthOf, h]

/-- The `index` that the commands on one interrupt bit accept (R94, R253). -/
theorem interruptBit_indexOk {b : Nat} (h1 : 1 ≤ b) (h24 : b ≤ 24) :
    (decide (1 ≤ b) && decide (b ≤ 24)) = true := by
  simp [h1, h24]

/-- Settles O18: the enable byte grows, so its write keeps every latch. -/
theorem enableIntArmsBit : Obligations.EnableIntArmsBit := by
  intro s c b v hr h1 h24 hw hen ch i m
  have hb : portOf b ≤ 2 := portOf_le h24
  rw [exec_of_worksInWindow (i := .enableInt c b v) (progEnableInt_works _ c _ hb) hr
    (interruptBit_indexOk h1 h24) hw]
  dsimp only [Instr.chipField]
  rw [armed_eq hb hen, mergeMask_truthOf]
  rfl

/-- Settles O19: the write that disables the bit clears its latch and, where only enabled bits are
latched, no other. -/
theorem disableIntDisarmsBit : Obligations.DisableIntDisarmsBit := by
  intro s c b hr h1 h24 hw hen ch i m
  have hb : portOf b ≤ 2 := portOf_le h24
  rw [exec_of_worksInWindow (i := .disableInt c b) (progDisableInt_works _ c hb) hr
    (interruptBit_indexOk h1 h24) hw]
  dsimp only [Instr.chipField]
  rw [disarmed_eq hb hen]
  rfl

/-- Settles O20: CLEARPULSE disables the bit, which clears its latch, and enables it. -/
theorem clearIntClearsLatch : Obligations.ClearIntClearsLatch := by
  intro s c b hr h1 h24 hw hen ch i m
  have hb : portOf b ≤ 2 := portOf_le h24
  rw [exec_of_worksInWindow (i := .clearInt c b) (progClearInt_works _ c hb) hr
    (interruptBit_indexOk h1 h24) hw]
  dsimp only [Instr.chipField]
  rw [pulsed_eq hb hen]
  rfl

/-- Settles O21: the one write of the command is to the port's interrupt-ID register. -/
theorem clearIntIdClearsPort : Obligations.ClearIntIdClearsPort := fun _ c _ hr hp hw =>
  exec_of_worksInWindow (i := .clearIntId c _) (progClearIntId_works _ c hp) hr (decide_eq_true hp)
    hw

/-! ### The frame of the interrupt commands -/

/-- Command `i` for port `p` makes `a` of the chip `b`: at most page and interrupt registers of that port
differ, polarities by ENABLE_INT only, enables not by CLEAR_INT_ID. -/
def InterruptFrame (i : Instr) (c p : Nat) (a b : Chip) : Prop :=
  ∃ pg en po l, a = { b with page := pg, enab := en, pol := po, intId := l } ∧
    (∀ q, q ≠ p → bankRead en q 0 = bankRead b.enab q 0 ∧ bankRead po q 0 = bankRead b.pol q 0 ∧
      bankRead l q 0 = bankRead b.intId q 0) ∧
    ((∀ x v, i ≠ .enableInt c x v) → po = b.pol) ∧
    (i = .clearIntId c p → en = b.enab)

theorem InterruptFrame.refl (i : Instr) (c p : Nat) (ch : Chip) : InterruptFrame i c p ch ch :=
  ⟨_, _, _, _, rfl, fun _ _ => ⟨rfl, rfl, rfl⟩, fun _ => rfl, fun _ => rfl⟩

theorem InterruptFrame.buf {i : Instr} {c p : Nat} {a b : Chip} (h : InterruptFrame i c p a b) :
    a.buf = b.buf := by
  obtain ⟨_, _, _, _, rfl, -⟩ := h
  rfl

theorem armed_frame (c b : Nat) (v : Byte) (rising : Bool) (ch : Chip) :
    InterruptFrame (.enableInt c b v) c (portOf b) (armed b rising ch) ch :=
  ⟨_, _, _, _, rfl, fun _ hq => ⟨bankRead_bankWrite_ne _ _ _ _ _ hq.symm,
    bankRead_bankWrite_ne _ _ _ _ _ hq.symm, bankRead_bankWrite_ne _ _ _ _ _ hq.symm⟩,
    fun h => absurd rfl (h b v), nofun⟩

theorem disarmed_frame (c b : Nat) (ch : Chip) :
    InterruptFrame (.disableInt c b) c (portOf b) (disarmed b ch) ch :=
  ⟨_, _, _, _, rfl, fun _ hq => ⟨bankRead_bankWrite_ne _ _ _ _ _ hq.symm, rfl,
    bankRead_bankWrite_ne _ _ _ _ _ hq.symm⟩, fun _ => rfl, nofun⟩

theorem pulsed_frame (c b : Nat) (ch : Chip) :
    InterruptFrame (.clearInt c b) c (portOf b) (pulsed b ch) ch :=
  ⟨_, _, _, _, rfl, fun _ hq => ⟨bankRead_bankWrite_ne _ _ _ _ _ hq.symm, rfl,
    bankRead_bankWrite_ne _ _ _ _ _ hq.symm⟩, fun _ => rfl, nofun⟩

theorem unlatched_frame (c p : Nat) (ch : Chip) :
    InterruptFrame (.clearIntId c p) c p (unlatched p ch) ch :=
  ⟨_, _, _, _, rfl, fun _ hq => ⟨rfl, rfl, bankRead_bankWrite_ne _ _ _ _ _ hq.symm⟩, fun _ => rfl,
    fun _ => rfl⟩

/-- The interrupt commands and what each makes of its chip. -/
theorem worksInWindow_of_interruptCommand {c p : Nat} {i : Instr}
    (h : (∃ b v, (i = .enableInt c b v ∨ i = .disableInt c b ∨ i = .clearInt c b) ∧
        p = (b - 1) / 8) ∨ i = .clearIntId c p) (k : Nat) (m : Bool) :
    i.chipField = c ∧ ∃ n effect,
      (indexOk i = true → WorksInWindow (programOf k m i) (.consumer k) n effect) ∧
        ∀ ch, InterruptFrame i c p (effect ch) ch := by
  have hbit : ∀ b, (decide (1 ≤ b) && decide (b ≤ 24)) = true → portOf b ≤ 2 := fun b hb =>
    portOf_le (of_decide_eq_true (Bool.and_eq_true_iff.mp hb).2)
  obtain ⟨b, v, rfl | rfl | rfl, rfl⟩ | rfl := h
  · exact ⟨rfl, _, _, fun hx => progEnableInt_works _ c _ (hbit b hx), armed_frame c b v _⟩
  · exact ⟨rfl, _, _, fun hx => progDisableInt_works _ c (hbit b hx), disarmed_frame c b⟩
  · exact ⟨rfl, _, _, fun hx => progClearInt_works _ c (hbit b hx), pulsed_frame c b⟩
  · exact ⟨rfl, _, _, fun hx => progClearIntId_works _ c (of_decide_eq_true hx), unlatched_frame c p⟩

/-- Settles O58: each of these commands leaves its chip as it was or with its effect on its port. -/
theorem interruptCommandsFrame : Obligations.InterruptCommandsFrame := by
  intro s t c p i hi ht
  suffices hframe : InterruptFrame i c p (t.chip c) (s.chip c) from
    ⟨hframe, fun a => by rw [hframe.buf]⟩
  obtain ⟨rfl, n, effect, hworks, heffect⟩ :=
    worksInWindow_of_interruptCommand hi s.cur (s.irqMode i.chipField)
  rcases chip_of_exec_worksInWindow hworks ht with hch | hch <;> rw [hch]
  · exact .refl i _ p _
  · exact heffect _

end Sys2Proof.Proofs
end

section
/-! ## SERVICE at work: GET_INT and WAIT_INT of a polled chip, and the sequencer's pass (R184, R185, R210,
R211, R215) -/

namespace Sys2Proof.Proofs

open Sys2Proof.Machine Sys2Proof.Laws Sys2Proof.Safety

/-! ### Bit numbers as events -/

theorem eventValue_bitNumber {b : Nat} (h : b ≤ 24) :
    eventValue (BitVec.ofNat 6 b) = BitVec.ofNat 8 b := by
  apply BitVec.eq_of_toNat_eq
  simp [eventValue]
  omega

theorem bitNumber_ne_zero {b : Nat} (h1 : 1 ≤ b) (h24 : b ≤ 24) : BitVec.ofNat 6 b ≠ 0 := by
  intro h0
  have := congrArg BitVec.toNat h0
  simp at this
  omega

/-! ### A service that ends the command -/

/-- From step `u` the micro-program takes the window, services, gives the window back and answers what
the service found: the whole of a polled GET_INT, and the end of a polled WAIT_INT (R210, R211). -/
structure AnswersService (p : Program) (me : Holder) (c u : Nat) : Prop where
  acquires : ∀ tmp ch, p u tmp ch = acquireW me (u + 1) tmp ch
  serves : HoldsService p c (u + 1)
  releases : ∀ tmp ch, p (u + 16) tmp ch =
    releaseW me ch fun ch' => .respond .ok (eventValue tmp.r) ch'

section
variable {p : Program} {me : Holder} {c u f : Nat} {ch : Chip}

/-- With a bit latched it clears the lowest latch and answers its number (R184). -/
theorem AnswersService.runProgram_latched {b : Nat} (hp : AnswersService p me c u) (tmp : Temps)
    (hw : ch.wlock = none) (hb : LowestLatched ch b) (hen : LatchesEnabled ch) (hf : 16 < f) :
    runProgram p f u tmp ch =
      .answered .ok (BitVec.ofNat 8 b)
        { ch with
          page := 0
          intId := bankWrite ch.intId (portOf b) (bankRead ch.intId (portOf b) 0 &&& ~~~maskOf b)
          draws := ch.draws + 1 } := by
  obtain ⟨n, tmp', hn, hr, hserve⟩ := reaches_service_latched
    (ch := { ch with wlock := some me }) hp.serves tmp hb hen
  rw [← eventValue_bitNumber hb.2.1, ← hr]
  exact runProgram_window (hp.acquires _ _) hw hserve (hp.releases _ _) hw (by omega)

/-- With nothing latched it answers 0. -/
theorem AnswersService.runProgram_none (hp : AnswersService p me c u) (tmp : Temps)
    (hw : ch.wlock = none) (h : NothingLatched ch) (hf : 16 < f) :
    runProgram p f u tmp ch = .answered .ok 0 { ch with draws := ch.draws + 1 } := by
  obtain ⟨tmp', hr, hserve⟩ := reaches_service_none
    (ch := { ch with wlock := some me }) hp.serves tmp h
  have hvalue : eventValue tmp'.r = 0 := by rw [hr]; rfl
  rw [← hvalue]
  exact runProgram_window (hp.acquires _ _) hw hserve (hp.releases _ _) hw (by omega)

end

/-! ### GET_INT of a polled chip -/

theorem progGetPolled_answersService (me : Holder) (c : Nat) :
    AnswersService (progGetPolled me c) me c 1 :=
  ⟨fun _ _ => rfl, progGetPolled_holdsService me c, fun _ _ => rfl⟩

theorem exec_getInt_polled {s : State} {c : Nat} (hm : s.irqMode c = false) :
    exec (.getInt c) s = command (.getInt c) (progGetPolled (.consumer s.cur) c) s := by
  simp [exec, execGetInt, progGetInt, hm]

/-- Settles O25: the command is one service under the window. -/
theorem getIntPolledServices : Obligations.GetIntPolledServices := by
  intro s c ⟨hbusy, hpres⟩ hm hw hen ch
  have hserves := progGetPolled_answersService (.consumer s.cur) c
  rw [exec_getInt_polled hm]
  exact ⟨fun b hb => ⟨_, command_answers _ _ s _ _ _ hbusy hpres rfl
      (hserves.runProgram_latched {} hw hb hen (by decide))⟩,
    fun hn => ⟨_, command_answers _ _ s _ _ _ hbusy hpres rfl
      (hserves.runProgram_none {} hw hn (by decide))⟩⟩

/-! ### WAIT_INT of a polled chip, once woken -/

/-- A command in flight whose next step is taken stands, after that and `n` more of its consumer's
steps, where its micro-program, run alone for `n` steps, gets. -/
theorem consumerRun_of_goto {k u : Nat} {i : Instr} {s : State} {upc : BitVec 6} {tmp tmp' : Temps}
    {ch : Chip} (hr : s.flight k = some ⟨encode i, upc, tmp⟩) (hi : issueFault i s = none)
    (hm : programOf k (s.irqMode i.chipField) i upc.toNat tmp (s.chip i.chipField) = .goto u tmp' ch)
    (n : Nat) :
    consumerRun k (n + 1) s =
      settle k (encode i) i.chipField
        (runProgram (programOf k (s.irqMode i.chipField) i) n u tmp' ch) s := by
  rw [consumerRun, consumerStep_of_goto hr (commandOf_encode i s upc tmp hi)
    ((issueFault_none i s).mp hi).1 hm, consumerRun_settle hi n tmp' ch (programOf_goto_stepOf hm)]

theorem progWaitPolled_answersService (k c : Nat) :
    AnswersService (progWaitPolled k c) (.consumer k) c 24 :=
  ⟨fun _ _ => rfl, progWaitPolled_holdsSecondService k c, fun _ _ => rfl⟩

section
variable {k c : Nat} {ch : Chip}

theorem progWaitPolled_woken (tmp : Temps) (hk : k ∈ ch.woken) (hq : ch.qlock = none) :
    progWaitPolled k c 21 tmp ch = .goto 22 tmp { ch with qlock := some (.consumer k) } := by
  simp [progWaitPolled, acquireQ, hk, hq]

/-- Under the queue lock, which it then gives back, it leaves both sets (R42, R211). -/
theorem reaches_waitPolled_left (tmp : Temps) (hq : ch.qlock = none) :
    Reaches (progWaitPolled k c) 2 22 tmp { ch with qlock := some (.consumer k) } 24 tmp
      (leaveWaiters k ch) := by
  refine .step rfl (.single ?_)
  simp [progWaitPolled, releaseQ, leaveWaiters, ← hq]

/-- A woken consumer's 20 steps: it leaves both sets and runs the second service. -/
theorem consumerRun_waitPolled_woken {s : State} {tmp : Temps}
    (hr : s.flight k = some ⟨encode (.waitInt c), 21, tmp⟩) (hp : s.present c = true)
    (hm : s.irqMode c = false) (hq : (s.chip c).qlock = none) (hk : k ∈ (s.chip c).woken) :
    consumerRun k 20 s =
      settle k (encode (.waitInt c)) c
        (runProgram (progWaitPolled k c) 17 24 tmp (leaveWaiters k (s.chip c))) s := by
  have hprog : programOf k (s.irqMode c) (.waitInt c) = progWaitPolled k c := by
    rw [hm]
    rfl
  have hstart := progWaitPolled_woken (c := c) tmp hk hq
  rw [← hprog] at hstart
  rw [consumerRun_of_goto hr ((issueFault_none _ s).mpr ⟨hp, rfl⟩) hstart 19]
  dsimp only [Instr.chipField]
  rw [hprog, runProgram_reaches (reaches_waitPolled_left tmp hq) 17]

end

/-- Settles O29: after leaving the waiter sets the consumer runs the service that ends the command. -/
theorem wokenPolledWaiterAnswers : Obligations.WokenPolledWaiterAnswers := by
  intro s k c tmp hr hp hm hq hw hk hen ch ch'
  have hserves := progWaitPolled_answersService k c
  rw [consumerRun_waitPolled_woken hr hp hm hq hk]
  refine ⟨fun b hb => ⟨ch.draws + 1, ?_⟩, fun hn => ⟨ch.draws + 1, ?_⟩⟩
  · rw [hserves.runProgram_latched (ch := leaveWaiters k ch) tmp hw hb hen (by decide)]
    rfl
  · rw [hserves.runProgram_none (ch := leaveWaiters k ch) tmp hw hn (by decide)]
    rfl

/-! ### The sequencer's record

No step of the sequencer reads or writes the record it stands in, so what its micro-program reaches, its
steps on the machine reach, with the record of each step stored beside (R51, R215). -/

/-- The step `m` with the sequencer's record of its chip replaced. -/
def withIss (x : Iss) : Micro → Micro
  | .wait => .wait
  | .goto u tmp ch => .goto u tmp { ch with iss := x }
  | .respond st v ch => .respond st v { ch with iss := x }

section
variable (x : Iss) (c : Nat) (tmp : Temps) (ch : Chip)

theorem afterRead_iss (off : Nat) :
    afterRead off { ch with iss := x } = { afterRead off ch with iss := x } := by
  simp only [afterRead, apply_ite (fun ch : Chip => { ch with iss := x })]
  rfl

theorem ioWrite_iss (off : Nat) (v : Byte) :
    ioWrite off v { ch with iss := x } = { ioWrite off v ch with iss := x } := by
  simp only [ioWrite, outWrite, captureIf, pagedWrite,
    apply_ite (fun ch : Chip => { ch with iss := x })]
  rfl

theorem readTo_iss (off n : Nat) :
    readTo c off n tmp { ch with iss := x } = withIss x (readTo c off n tmp ch) := by
  rw [readTo, afterRead_iss]
  rfl

theorem writeFrom_iss (off : Nat) (v : Byte) (n : Nat) :
    writeFrom off v n tmp { ch with iss := x } = withIss x (writeFrom off v n tmp ch) := by
  rw [writeFrom, ioWrite_iss]
  rfl

theorem acquireW_iss (me : Holder) (n : Nat) :
    acquireW me n tmp { ch with iss := x } = withIss x (acquireW me n tmp ch) := by
  rw [acquireW, acquireW, apply_ite (withIss x)]
  rfl

theorem acquireQ_iss (me : Holder) (n : Nat) :
    acquireQ me n tmp { ch with iss := x } = withIss x (acquireQ me n tmp ch) := by
  rw [acquireQ, acquireQ, apply_ite (withIss x)]
  rfl

theorem scanPort_iss (i found next : Nat) (missed : EventNo) :
    scanPort c i found next missed tmp { ch with iss := x } =
      withIss x (scanPort c i found next missed tmp ch) := by
  rw [scanPort, scanPort, afterRead_iss, apply_ite (withIss x)]
  rfl

theorem clearPulse_iss (b base pos : Nat) :
    clearPulse c b base pos tmp { ch with iss := x } =
      withIss x (clearPulse c b base pos tmp ch) := by
  unfold clearPulse
  split
  · exact readTo_iss x c tmp ch _ _
  · exact writeFrom_iss x tmp ch _ _ _
  · exact readTo_iss x c tmp ch _ _
  · exact writeFrom_iss x tmp ch _ _ _
  · exact writeFrom_iss x tmp ch _ _ _
  · exact readTo_iss x c tmp ch _ _
  · exact writeFrom_iss x tmp ch _ _ _
  · rfl

theorem poll_iss (base none pos : Nat) :
    poll c base none pos tmp { ch with iss := x } = withIss x (poll c base none pos tmp ch) := by
  unfold poll
  split
  · rw [afterRead_iss, apply_ite (withIss x)]
    rfl
  · exact readTo_iss x c tmp ch _ _
  · exact writeFrom_iss x tmp ch _ _ _
  · exact scanPort_iss x c tmp ch _ _ _ _
  · exact scanPort_iss x c tmp ch _ _ _ _
  · exact scanPort_iss x c tmp ch _ _ _ _
  · exact readTo_iss x c tmp ch _ _
  · exact writeFrom_iss x tmp ch _ _ _
  · rfl

theorem service_iss (base pos : Nat) :
    service c base pos tmp { ch with iss := x } = withIss x (service c base pos tmp ch) := by
  unfold service
  split
  · exact poll_iss x c tmp ch _ _ _
  · exact clearPulse_iss x c tmp ch _ _ _

theorem releaseW_iss {k : Chip → Micro} (me : Holder)
    (hk : ∀ ch, k { ch with iss := x } = withIss x (k ch)) :
    releaseW me { ch with iss := x } k = withIss x (releaseW me ch k) := by
  rw [releaseW, releaseW, apply_ite (withIss x), ← hk]
  rfl

theorem releaseQ_iss {k : Chip → Micro} (me : Holder)
    (hk : ∀ ch, k { ch with iss := x } = withIss x (k ch)) :
    releaseQ me { ch with iss := x } k = withIss x (releaseQ me ch k) := by
  rw [releaseQ, releaseQ, apply_ite (withIss x), ← hk]
  rfl

theorem progIss_iss (u : Nat) :
    progIss c u tmp { ch with iss := x } = withIss x (progIss c u tmp ch) := by
  have hstart : (if irq ch then acquireW .iss 2 tmp { ch with iss := x } else .wait) =
      withIss x (if irq ch then acquireW .iss 2 tmp ch else .wait) := by
    rw [acquireW_iss, apply_ite (withIss x)]
    rfl
  unfold progIss
  split
  · exact hstart
  · exact hstart
  · exact releaseW_iss x ch _ fun ch' => by
      rw [apply_ite (withIss x)]
      rfl
  · exact acquireQ_iss x tmp ch _ _
  · rfl
  · exact releaseQ_iss x ch _ fun _ => rfl
  · exact service_iss x c tmp ch _ _

end

/-- Where the sequencer's micro-program gets in `n` steps, `n` steps of the sequencer lead. -/
theorem issRun_reaches {c n u u' : Nat} {tmp tmp' : Temps} {ch ch' : Chip} {s : State}
    (hirq : s.irqMode c = true) (h : Reaches (progIss c) n u tmp ch u' tmp' ch') (hu : u ≤ 20) :
    issRun c n (s.setChip c { ch with iss := ⟨BitVec.ofNat 6 u, tmp⟩ }) =
      s.setChip c { ch' with iss := ⟨BitVec.ofNat 6 u', tmp'⟩ } := by
  induction h with
  | refl => rfl
  | @step n u u₁ _ tmp tmp₁ _ ch ch₁ _ hg _ ih =>
    have hlast := meets_progIss chipInvariant_true c u tmp (ch := ch) trivial
    rw [hg] at hlast
    have hchip := chip_setChip_present s c { ch with iss := ⟨BitVec.ofNat 6 u, tmp⟩ }
      (present_of_irqMode hirq)
    have hstep := issStep_of_goto (c := c) (u := u₁) (tmp := tmp₁)
      (ch := { ch₁ with iss := ⟨BitVec.ofNat 6 u, tmp⟩ })
      (s := s.setChip c { ch with iss := ⟨BitVec.ofNat 6 u, tmp⟩ }) hirq (by
        rw [hchip, upc_toNat (hu.trans (by decide)), progIss_iss, hg]
        rfl)
    rw [issRun, hstep, setChip_setChip]
    exact ih hlast.1

/-! ### One pass of the sequencer -/

section
variable {c : Nat} {ch : Chip}

theorem progIss_starts (tmp : Temps) (h : irq ch = true) (hw : ch.wlock = none) :
    progIss c 0 tmp ch = .goto 2 tmp { ch with wlock := some .iss } := by
  simp [progIss, acquireW, h, hw]

theorem progIss_found {tmp : Temps} (hw : ch.wlock = some .iss) (hr : tmp.r ≠ 0) :
    progIss c 17 tmp ch = .goto 18 tmp { ch with wlock := none } := by
  rw [progIss, releaseW, if_pos hw, if_neg hr]

/-- With the queue lock free it pushes what the service found and wakes the waiters (R213, R215). -/
theorem reaches_progIss_pushed (tmp : Temps) (hq : ch.qlock = none) :
    Reaches (progIss c) 3 18 tmp ch 0 tmp (wake (push tmp.r ch)) := by
  have hacq : progIss c 18 tmp ch = .goto 19 tmp { ch with qlock := some .iss } := by
    simp [progIss, acquireQ, hq]
  refine .step hacq (.step rfl (.single ?_))
  simp [progIss, releaseQ, wake, push, queueFull, ← hq]

theorem irq_of_latched {b : Nat} (hb : LowestLatched ch b) : irq ch = true :=
  bne_iff_ne.mpr (pend_ne_zero_of_firstLatched (firstLatched_of_lowestLatched hb).1)

/-- A pass of an idle sequencer on a chip with a bit latched, both locks free (R184, R215). -/
theorem reaches_progIss_pass {b : Nat} (tmp : Temps) (hw : ch.wlock = none) (hq : ch.qlock = none)
    (hen : LatchesEnabled ch) (hb : LowestLatched ch b) :
    ∃ n tmp', n ≤ 20 ∧ Reaches (progIss c) n 0 tmp ch 0 tmp'
      (wake (push (BitVec.ofNat 6 b)
        { ch with
          page := 0
          intId := bankWrite ch.intId (portOf b) (bankRead ch.intId (portOf b) 0 &&& ~~~maskOf b)
          draws := ch.draws + 1 })) := by
  obtain ⟨n, tmp', hn, hr, hserve⟩ := reaches_service_latched
    (ch := { ch with wlock := some .iss }) (progIss_holdsService c) tmp hb hen
  have hne : tmp'.r ≠ 0 := hr ▸ bitNumber_ne_zero hb.1 hb.2.1
  have hpass := (Reaches.step (progIss_starts tmp (irq_of_latched hb) hw) hserve).trans
    (.step (progIss_found rfl hne) (reaches_progIss_pushed tmp' hq))
  rw [hr] at hpass
  refine ⟨n + 1 + (3 + 1), tmp', by omega, ?_⟩
  simpa only [← hw] using hpass

end

theorem queueFull_iff (ch : Chip) : queueFull ch = true ↔ ch.qcnt = 1024 := beq_iff_eq

/-- Settles O41: the sequencer's steps are those of its micro-program, which from idle services, pushes
and wakes. -/
theorem issPassServicesLowestBit : Obligations.IssPassServicesLowestBit := by
  intro s c b hirq hu hw hq hen hb ch
  obtain ⟨n, tmp, hn, hpass⟩ := reaches_progIss_pass (c := c) ch.iss.tmp hw hq hen hb
  have hidle : s.setChip c { ch with iss := ⟨BitVec.ofNat 6 0, ch.iss.tmp⟩ } = s := by
    rw [show BitVec.ofNat 6 0 = ch.iss.upc from hu.symm]
    exact setChip_chip s c
  have hrun := issRun_reaches hirq hpass (Nat.zero_le _)
  rw [hidle] at hrun
  refine ⟨n, ch.draws + 1, tmp, hn, hrun.trans ?_⟩
  simp only [push, queueFull_iff]
  rfl

end Sys2Proof.Proofs
end

section
/-! ## PUSH and POP on the unread events (R39, R200 to R203) -/

namespace Sys2Proof.Proofs

open Sys2Proof.Machine Sys2Proof.Laws Sys2Proof.Safety

/-! ### A stretch of the event buffer -/

/-- The events in `n` slots of the buffer from slot `a` on, in that order (R36, R39). -/
def stretch (m : Memory) (a : BitVec 10) (n : Nat) : List EventNo :=
  (List.range n).map fun j => (memRead? m (a + BitVec.ofNat 10 j).toNat).getD 0

theorem unread_eq_stretch (ch : Chip) : unread ch = stretch ch.buf ch.qout ch.qcnt.toNat := rfl

@[simp] theorem unread_length (ch : Chip) : (unread ch).length = ch.qcnt.toNat := by
  simp [unread]

/-- The first slot, and the stretch from the next one on. -/
theorem stretch_succ_first (m : Memory) (a : BitVec 10) (n : Nat) :
    stretch m a (n + 1) = (memRead? m a.toNat).getD 0 :: stretch m (a + 1) n := by
  simp only [stretch, List.range_succ_eq_map, List.map_cons, List.map_map, Function.comp_def,
    slot_succ]
  simp

/-- The stretch without its last slot, and the last slot. -/
theorem stretch_succ_last (m : Memory) (a : BitVec 10) (n : Nat) :
    stretch m a (n + 1) =
      stretch m a n ++ [(memRead? m (a + BitVec.ofNat 10 n).toNat).getD 0] := by
  simp [stretch, List.range_succ]

/-- Writing the slot right behind a stretch shorter than the buffer leaves the stretch. -/
theorem stretch_store_behind (m : Memory) (a : BitVec 10) {n : Nat} (e : EventNo) (hn : n < 1024) :
    stretch (memStore m (a + BitVec.ofNat 10 n).toNat e) a n = stretch m a n := by
  refine List.map_congr_left fun j hj => ?_
  have hlt : j < n := List.mem_range.mp hj
  have hne : (a + BitVec.ofNat 10 n).toNat ≠ (a + BitVec.ofNat 10 j).toNat := fun h =>
    absurd (slot_injective a (by omega) hn h.symm) (by omega)
  rw [memRead?_store_ne _ _ _ _ hne]

/-- An event written right behind a stretch shorter than the buffer is appended to it. -/
theorem stretch_store_append (m : Memory) (a : BitVec 10) {n : Nat} (e : EventNo) (hn : n < 1024) :
    stretch (memStore m (a + BitVec.ofNat 10 n).toNat e) a (n + 1) = stretch m a n ++ [e] := by
  rw [stretch_succ_last, stretch_store_behind m a e hn, memRead?_store_same]
  rfl

/-! ### PUSH (R201) -/

theorem qin_of_consistent {ch : Chip} (h : QueueConsistent ch) :
    ch.qin = ch.qout + BitVec.ofNat 10 ch.qcnt.toNat := by
  rw [h.2]
  bv_omega

theorem push_queueConsistent (e : EventNo) {ch : Chip} (h : QueueConsistent ch) :
    QueueConsistent (push e ch) := by
  obtain ⟨hle, hqin⟩ := h
  by_cases hf : ch.qcnt = 1024
  · rw [push_of_full e hf]
    exact ⟨hle, by simp only [hqin, hf]; bv_omega⟩
  · rw [push_of_not_full e hf]
    exact ⟨by simp only; bv_omega, by simp only [hqin]; bv_omega⟩

/-- With room left the event is appended. -/
theorem unread_push_of_not_full (e : EventNo) {ch : Chip} (h : QueueConsistent ch)
    (hf : ch.qcnt ≠ 1024) : unread (push e ch) = unread ch ++ [e] := by
  have hle : ch.qcnt.toNat ≤ 1024 := h.1
  have hcnt : (ch.qcnt + 1).toNat = ch.qcnt.toNat + 1 ∧ ch.qcnt.toNat < 1024 := by
    constructor <;> bv_omega
  rw [push_of_not_full e hf, unread_eq_stretch, unread_eq_stretch]
  simp only [hcnt.1, qin_of_consistent h]
  exact stretch_store_append _ _ e hcnt.2

/-- With 1024 unread the slot written is that of the oldest, which is right behind the other 1023. -/
theorem unread_push_of_full (e : EventNo) {ch : Chip} (h : QueueConsistent ch)
    (hf : ch.qcnt = 1024) : unread (push e ch) = (unread ch).tail ++ [e] := by
  have hcnt : ch.qcnt.toNat = 1023 + 1 := by rw [hf]; rfl
  rw [push_of_full e hf, unread_eq_stretch, unread_eq_stretch]
  simp only [qin_of_consistent h, hcnt]
  rw [stretch_succ_first _ ch.qout, List.tail_cons, ← slot_succ,
    stretch_store_append _ _ e (by decide)]

/-- Settles O38: the event goes right behind the unread ones, and on a full queue the oldest, whose slot
it takes, is passed over. -/
theorem pushAppendsEvent : Obligations.PushAppendsEvent := by
  intro ch e
  refine ⟨by simp only [push, queueFull_iff], fun h => ⟨push_queueConsistent e h, ?_⟩⟩
  split
  · exact unread_push_of_full e h ‹_›
  · exact unread_push_of_not_full e h ‹_›

/-! ### POP (R202) -/

theorem qcnt_pred {n : BitVec 11} (h : n ≠ 0) : n.toNat = (n - 1).toNat + 1 := by
  bv_omega

/-- Settles O39: POP passes over the slot `QOUT` names, which holds the oldest unread event. -/
theorem popRemovesOldest : Obligations.PopRemovesOldest := by
  intro ch c
  refine ⟨fun e hne he => ⟨popValue_of_unread c hne he, popChip_of_unread hne he, fun h => ?_⟩,
    fun h => ⟨popValue_of_empty c h, popChip_of_empty h⟩⟩
  obtain ⟨hle, hqin⟩ := h
  have hcnt := qcnt_pred hne
  rw [popChip_of_unread hne he, unread_eq_stretch, unread_eq_stretch, hcnt, stretch_succ_first, he]
  exact ⟨⟨by simp only; omega, by simp only [hqin]; bv_omega⟩, rfl⟩

/-! ### Any number of pushes (R203) -/

/-- Of the last `n` elements of a list with more appended, the last `n` are those of the whole. -/
theorem rtake_rtake_append {α : Type} (l l' : List α) (n : Nat) :
    (l.rtake n ++ l').rtake n = (l ++ l').rtake n := by
  unfold List.rtake
  rw [← List.drop_append_of_le_length (Nat.sub_le _ _), List.drop_drop]
  congr 1
  simp only [List.length_drop, List.length_append]
  omega

theorem rtake_of_length_le {α : Type} {l : List α} {n : Nat} (h : l.length ≤ n) : l.rtake n = l := by
  rw [List.rtake, Nat.sub_eq_zero_of_le h, List.drop_zero]

/-- PUSH leaves the last 1024 of the unread events and the one pushed. -/
theorem unread_push (e : EventNo) {ch : Chip} (h : QueueConsistent ch) :
    unread (push e ch) = (unread ch ++ [e]).rtake 1024 := by
  by_cases hf : ch.qcnt = 1024
  · have hlen : (unread ch).length = 1024 := by rw [unread_length, hf]; rfl
    rw [unread_push_of_full e h hf, List.rtake_concat_succ, List.rtake, hlen, List.drop_one]
  · have hlt : (unread ch).length < 1024 := by
      have hle : ch.qcnt.toNat ≤ 1024 := h.1
      rw [unread_length]
      bv_omega
    rw [unread_push_of_not_full e h hf, rtake_of_length_le (by simpa using hlt)]

theorem unread_pushes (es : List EventNo) {ch : Chip} (h : QueueConsistent ch) :
    unread (es.foldl (fun x e => push e x) ch) = (unread ch ++ es).rtake 1024 := by
  induction es generalizing ch with
  | nil =>
    rw [List.foldl_nil, List.append_nil, rtake_of_length_le ((unread_length ch).trans_le h.1)]
  | cons e es ih =>
    rw [List.foldl_cons, ih (push_queueConsistent e h), unread_push e h, rtake_rtake_append,
      List.append_assoc, List.singleton_append]

/-- Settles O40: each push keeps the last 1024 of what was unread and itself, so any number of them
do. -/
theorem queueKeepsLast1024 : Obligations.QueueKeepsLast1024 := fun _ es h => unread_pushes es h

end Sys2Proof.Proofs
end

section
/-! ## GET_INT and WAIT_INT of an IRQ-driven chip, and consumers that stay blocked (R202, R210 to R212,
R216, R269) -/

namespace Sys2Proof.Proofs

open Sys2Proof.Machine Sys2Proof.Laws Sys2Proof.Safety

/-! ### POP under the queue lock -/

/-- What POP does to a chip does not depend on the queue lock. -/
theorem popChip_qlock (l : Option Holder) (ch : Chip) :
    popChip { ch with qlock := l } = { popChip ch with qlock := l } := by
  by_cases h : ch.qcnt = 0#11 <;> simp [popChip, queueEmpty, h]

/-- A micro-program that holds the queue lock, pops from the chip `x` it makes of `ch`, and then gives
the lock back with its answer: the whole of a buffered GET_INT, and the end of a buffered WAIT_INT (R210,
R211). -/
theorem runProgram_pops {p : Program} {me : Holder} {c u f : Nat} {tmp : Temps} {ch x : Chip}
    (hpop : p u tmp { ch with qlock := some me } =
      .goto (u + 1) { tmp with r := popValue c x } (popChip { x with qlock := some me }))
    (hrel : ∀ tmp ch, p (u + 1) tmp ch =
      releaseQ me ch fun ch' => .respond .ok (eventValue tmp.r) ch')
    (hq : x.qlock = none) (hf : 1 < f) :
    runProgram p f u tmp { ch with qlock := some me } =
      .answered .ok (eventValue (popValue c x)) (popChip x) := by
  have hfree : (popChip x).qlock = none := (popChip_locks x).2.1.trans hq
  refine runProgram_reaches_respond (.single hpop) hf ?_
  rw [hrel, popChip_qlock, releaseQ, if_pos rfl]
  simp only [← hfree]

section
variable {k c : Nat} {ch : Chip}

/-! ### GET_INT (R210) -/

/-- A buffered GET_INT with the queue lock free answers what POP yields. -/
theorem runProgram_getBuffered (me : Holder) (hq : ch.qlock = none) :
    runProgram (progGetBuffered me c) longestProgram 1 {} ch =
      .answered .ok (eventValue (popValue c ch)) (popChip ch) := by
  have hacq : progGetBuffered me c 1 {} ch = .goto 2 {} { ch with qlock := some me } := by
    rw [progGetBuffered, acquireQ, if_pos hq]
  rw [longestProgram, runProgram_goto _ _ _ _ _ _ _ _ hacq]
  exact runProgram_pops rfl (fun _ _ => rfl) hq (by decide)

theorem exec_getInt_buffered {s : State} (hm : s.irqMode c = true) :
    exec (.getInt c) s = command (.getInt c) (progGetBuffered (.consumer s.cur) c) s := by
  simp [exec, execGetInt, progGetInt, hm]

/-- Settles O24: the command answers what POP yields and leaves what POP leaves. -/
theorem getIntBufferedPops : Obligations.GetIntBufferedPops := by
  intro s c ⟨hbusy, hpres⟩ hm hq ch
  have hexec : exec (.getInt c) s =
      .next ((s.setChip c (popChip ch)).deliver s.cur .ok (eventValue (popValue c ch))) := by
    rw [exec_getInt_buffered hm]
    exact command_answers (.getInt c) _ s _ _ _ hbusy hpres rfl (runProgram_getBuffered _ hq)
  rw [hexec]
  refine ⟨fun e hne he => ?_, fun hempty => ?_⟩
  · rw [popValue_of_unread c hne he, popChip_of_unread hne he]
    rfl
  · rw [popValue_of_empty c hempty, popChip_of_empty hempty, setChip_chip]
    rfl

/-! ### WAIT_INT once released (R211, R212) -/

theorem progWaitBuffered_released (tmp : Temps) (h : k ∈ ch.woken ∨ ch.qcnt ≠ 0)
    (hq : ch.qlock = none) :
    progWaitBuffered k c 4 tmp ch = .goto 5 tmp { ch with qlock := some (.consumer k) } := by
  rw [progWaitBuffered, if_pos h, acquireQ, if_pos hq]

/-- Under the queue lock it leaves both sets and pops, and gives the lock back with its answer. -/
theorem runProgram_waitBuffered_leaves {f : Nat} (tmp : Temps) (hq : ch.qlock = none) (hf : 1 < f) :
    runProgram (progWaitBuffered k c) f 5 tmp { ch with qlock := some (.consumer k) } =
      .answered .ok (eventValue (popValue c ch)) (popChip (leaveWaiters k ch)) :=
  runProgram_pops (x := leaveWaiters k ch) rfl (fun _ _ => rfl) hq hf

/-- Three steps of a consumer released before step 4. -/
theorem consumerRun_waitBuffered_released {s : State} {tmp : Temps}
    (hr : s.flight k = some ⟨encode (.waitInt c), 4, tmp⟩) (hp : s.present c = true)
    (hm : s.irqMode c = true) (hq : (s.chip c).qlock = none)
    (h : k ∈ (s.chip c).woken ∨ (s.chip c).qcnt ≠ 0) :
    consumerRun k 3 s =
      ((s.setChip c (popChip (leaveWaiters k (s.chip c)))).endFlight k).deliver k .ok
        (eventValue (popValue c (s.chip c))) := by
  have hprog : programOf k (s.irqMode c) (.waitInt c) = progWaitBuffered k c := by
    rw [hm]
    rfl
  have hstart := progWaitBuffered_released (c := c) tmp h hq
  rw [← hprog] at hstart
  rw [consumerRun_of_goto hr ((issueFault_none _ s).mpr ⟨hp, rfl⟩) hstart 2]
  dsimp only [Instr.chipField]
  rw [hprog, runProgram_waitBuffered_leaves tmp hq (by decide)]
  rfl

end

/-- Settles O28: released, the consumer leaves both sets and answers what POP yields. -/
theorem wokenWaiterAnswers : Obligations.WokenWaiterAnswers := by
  intro s k c tmp hr hp hm hq ch ch'
  have hrun := consumerRun_waitBuffered_released hr hp hm hq
  refine ⟨fun hempty hk => ?_, fun e hne he => ?_⟩
  · rw [hrun (.inl hk), popValue_of_empty c hempty, popChip_of_empty (ch := leaveWaiters k ch) hempty]
    rfl
  · rw [hrun (.inr hne), popValue_of_unread c hne he,
      popChip_of_unread (ch := leaveWaiters k ch) hne he]
    rfl

/-! ### Blocked, and released by the environment (R211, R213, R216, R269) -/

/-- Settles O30: the step before which the consumer stands is not enabled. -/
theorem unwokenWaiterStays : Obligations.UnwokenWaiterStays := by
  intro s k c tmp hp hstands hk
  have hi := fun u => commandOf_encode (.waitInt c) s u tmp ((issueFault_none _ s).mpr ⟨hp, rfl⟩)
  rcases hstands with ⟨hm, hr, hempty⟩ | ⟨hm, hr⟩
  · refine consumerStep_of_wait hr (hi 4) hp ?_
    dsimp only [Instr.chipField]
    rw [hm]
    exact progWaitBuffered_unwoken (c := c) tmp hempty hk
  · refine consumerStep_of_wait hr (hi 21) hp ?_
    dsimp only [Instr.chipField]
    rw [hm]
    exact progWaitPolled_unwoken (c := c) tmp hk

theorem envWake_accepted {s : State} {c : Nat} (hp : s.present c = true) :
    envWake c s = .next (s.setChip c (wake (s.chip c))) := by
  rw [envWake, if_pos hp]

/-- Settles O36: the planned move is WAKE on a present chip. -/
theorem envWakeReleasesWaiters : Obligations.EnvWakeReleasesWaiters := by
  intro s c rest hl ha hp
  rw [step_planned hl ha]
  exact envWake_accepted (s := { s with agenda := rest }) hp

end Sys2Proof.Proofs
end

section
/-! ## The queue of a polled chip stays empty (R200, R218)

Nothing but PUSH and POP moves the count of unread events: PUSH is the sequencer's, which runs on
IRQ-driven chips only, and on a polled chip no command pops. -/

namespace Sys2Proof.Proofs

open Sys2Proof.Machine Sys2Proof.Laws Sys2Proof.Safety

/-! ### Steps that leave the count -/

/-- Where the step is taken, it leaves the count of unread events. -/
abbrev KeepsCount (ch : Chip) : Micro → Prop :=
  Leads (fun _ _ ch' => ch'.qcnt = ch.qcnt) (fun ch' => ch'.qcnt = ch.qcnt)

@[simp] theorem afterRead_qcnt (off : Nat) (ch : Chip) : (afterRead off ch).qcnt = ch.qcnt :=
  (sameShared_afterRead off ch).qcnt

@[simp] theorem writeThrough_qcnt (off : Nat) (v : Byte) (ch : Chip) :
    (writeThrough off v ch).qcnt = ch.qcnt := (sameShared_writeThrough off v ch).qcnt

section
variable {me : Holder} {tmp : Temps} {ch : Chip} {n : Nat}

@[simp] theorem keepsCount_wait : KeepsCount ch .wait := trivial

@[simp] theorem keepsCount_goto (ch' : Chip) :
    KeepsCount ch (.goto n tmp ch') ↔ ch'.qcnt = ch.qcnt := Iff.rfl

@[simp] theorem keepsCount_respond (st : Status) (v : Byte) (ch' : Chip) :
    KeepsCount ch (.respond st v ch') ↔ ch'.qcnt = ch.qcnt := Iff.rfl

@[simp] theorem keepsCount_acquireW : KeepsCount ch (acquireW me n tmp ch) :=
  leads_acquireW fun _ => rfl

@[simp] theorem keepsCount_acquireQ : KeepsCount ch (acquireQ me n tmp ch) :=
  leads_acquireQ fun _ => rfl

/-- A release leaves the count where what the same step does after it does. -/
@[simp] theorem keepsCount_releaseW {k : Chip → Micro}
    (hk : KeepsCount ch (k { ch with wlock := none })) : KeepsCount ch (releaseW me ch k) :=
  leads_releaseW fun _ => hk

@[simp] theorem keepsCount_releaseQ {k : Chip → Micro}
    (hk : KeepsCount ch (k { ch with qlock := none })) : KeepsCount ch (releaseQ me ch k) :=
  leads_releaseQ fun _ => hk

@[simp] theorem keepsCount_readTo (c off : Nat) : KeepsCount ch (readTo c off n tmp ch) :=
  leads_readTo fun _ _ h => h.qcnt

@[simp] theorem keepsCount_writeFrom (off : Nat) (v : Byte) :
    KeepsCount ch (writeFrom off v n tmp ch) := leads_writeFrom fun _ h => h.qcnt

@[simp] theorem keepsCount_selectWrite (pg : BitVec 2) :
    KeepsCount ch (selectWrite pg n tmp ch) := keepsCount_writeFrom 7 _

@[simp] theorem keepsCount_clearPulse (c b base pos : Nat) :
    KeepsCount ch (clearPulse c b base pos tmp ch) := leads_clearPulse fun _ _ _ _ h => h.qcnt

@[simp] theorem keepsCount_service (c base pos : Nat) :
    KeepsCount ch (service c base pos tmp ch) := leads_service fun _ _ _ _ _ _ _ h => h.qcnt

end

/-! ### The commands of a polled chip -/

section
variable (me : Holder) (k c u : Nat) (tmp : Temps) (ch : Chip)

theorem keepsCount_progReadPort (off : Nat) : KeepsCount ch (progReadPort c off u tmp ch) := by
  unfold progReadPort
  split <;> simp

theorem keepsCount_progReadBit (b : Nat) : KeepsCount ch (progReadBit c b u tmp ch) := by
  unfold progReadBit
  split <;> simp

theorem keepsCount_progWritePort (off : Nat) (v : Byte) :
    KeepsCount ch (progWritePort me off v u tmp ch) := by
  unfold progWritePort
  split <;> simp

theorem keepsCount_progWriteBit (b : Nat) (val : Bool) :
    KeepsCount ch (progWriteBit me b val u tmp ch) := by
  unfold progWriteBit
  split <;> simp

theorem keepsCount_progLockPort (p : Nat) : KeepsCount ch (progLockPort me c p u tmp ch) := by
  unfold progLockPort
  split <;> simp

theorem keepsCount_progUnlockPort (p : Nat) : KeepsCount ch (progUnlockPort me c p u tmp ch) := by
  unfold progUnlockPort
  split <;> simp

theorem keepsCount_progEnableInt (b : Nat) (rising : Bool) :
    KeepsCount ch (progEnableInt me c b rising u tmp ch) := by
  unfold progEnableInt
  split <;> simp

theorem keepsCount_progDisableInt (b : Nat) : KeepsCount ch (progDisableInt me c b u tmp ch) := by
  unfold progDisableInt
  split <;> simp

theorem keepsCount_progClearInt (b : Nat) : KeepsCount ch (progClearInt me c b u tmp ch) := by
  unfold progClearInt
  split <;> simp

theorem keepsCount_progClearIntId (p : Nat) : KeepsCount ch (progClearIntId me c p u tmp ch) := by
  unfold progClearIntId
  split <;> simp

theorem keepsCount_progGetPolled : KeepsCount ch (progGetPolled me c u tmp ch) := by
  unfold progGetPolled
  split <;> simp

theorem keepsCount_progWaitPolled : KeepsCount ch (progWaitPolled k c u tmp ch) := by
  unfold progWaitPolled joinWaiters leaveWaiters
  split
  · simp
  · exact keepsCount_releaseW (by split <;> rfl)
  · simp
  · simp
  · simp
  · split <;> simp
  · simp
  · simp
  · simp
  · simp
  · split <;> simp

/-- No step of a command in polled mode moves the count (R210, R211, R218). -/
theorem keepsCount_programOf {m : Bool} (hm : m = false) (i : Instr) :
    KeepsCount ch (programOf k m i u tmp ch) := by
  subst hm
  cases i with
  | readPort c x => exact keepsCount_progReadPort c u tmp ch x
  | writePort c x v => exact keepsCount_progWritePort _ u tmp ch x v
  | readBit c x => exact keepsCount_progReadBit c u tmp ch x
  | writeBit c x v => exact keepsCount_progWriteBit _ u tmp ch x _
  | setBit c x => exact keepsCount_progWriteBit _ u tmp ch x _
  | clrBit c x => exact keepsCount_progWriteBit _ u tmp ch x _
  | enableInt c x v => exact keepsCount_progEnableInt _ c u tmp ch x _
  | disableInt c x => exact keepsCount_progDisableInt _ c u tmp ch x
  | clearInt c x => exact keepsCount_progClearInt _ c u tmp ch x
  | getInt c => exact keepsCount_progGetPolled _ c u tmp ch
  | waitInt c => exact keepsCount_progWaitPolled k c u tmp ch
  | clearIntId c x => exact keepsCount_progClearIntId _ c u tmp ch x
  | lockPort c x => exact keepsCount_progLockPort _ c u tmp ch x
  | unlockPort c x => exact keepsCount_progUnlockPort _ c u tmp ch x

end

/-! ### Every step of the machine -/

/-- The queue of every chip that is not IRQ-driven is empty (R218). -/
def PolledQueuesEmpty (s : State) : Prop := ∀ c, s.irqMode c = false → (s.chip c).qcnt = 0

/-- A chip written over a slot that is not IRQ-driven has as many events unread as the one before. -/
theorem polledQueuesEmpty_setChip {s : State} {c : Nat} {ch : Chip} (h : PolledQueuesEmpty s)
    (hp : s.present c = true) (hch : s.irqMode c = false → ch.qcnt = (s.chip c).qcnt) :
    PolledQueuesEmpty (s.setChip c ch) := by
  intro d hd
  by_cases hcd : c = d
  · subst hcd
    rw [chip_setChip_present s c ch hp, hch hd]
    exact h c hd
  · rw [chip_setChip_ne s c d ch hcd]
    exact h d hd

/-- Every number names a reset chip after reset, one of no slot by convention. -/
theorem reset_qcnt (s : State) (c : Nat) :
    (State.chip { s with chips := #v[resetChip 1 s, resetChip 2 s, resetChip 3 s, resetChip 4 s] }
      c).qcnt = 0 := by
  by_cases hc : c ∈ slotNumbers
  · exact everyChip_reset (C := fun ch => ch.qcnt = 0) s (fun _ _ => rfl) c hc
  · have hout : 4 ≤ slotIx c := by
      simp only [slotNumbers, List.mem_cons, List.not_mem_nil, or_false] at hc
      unfold slotIx
      split <;> omega
    rw [State.chip, bankRead_outside _ _ _ hout]
    rfl

theorem atomicInvariant_polledQueuesEmpty : AtomicInvariant PolledQueuesEmpty where
  free _ _ _ _ h := h
  answer _ _ _ h := h
  issue _ _ _ h _ _ := h
  consumer s k h := by
    rcases consumerStep_cases k s with ⟨-, hs⟩ | ⟨r, i, u, tmp, ch, -, -, hp, hm, hs⟩ |
      ⟨r, i, st, v, ch, -, -, hp, hm, hs⟩ <;> rw [hs]
    · exact h
    · have hkeeps := fun hpolled : s.irqMode i.chipField = false =>
        keepsCount_programOf k r.upc.toNat r.tmp (s.chip i.chipField) hpolled i
      rw [hm] at hkeeps
      exact polledQueuesEmpty_setChip (c := i.chipField) h hp hkeeps
    · have hkeeps := fun hpolled : s.irqMode i.chipField = false =>
        keepsCount_programOf k r.upc.toNat r.tmp (s.chip i.chipField) hpolled i
      rw [hm] at hkeeps
      exact polledQueuesEmpty_setChip (c := i.chipField) h hp hkeeps
  iss s c h := by
    rcases issStep_cases c s with hs | ⟨u, tmp, ch, hi, -, hs⟩ <;> rw [hs]
    · exact h
    · refine polledQueuesEmpty_setChip h (present_of_irqMode hi) fun hpolled => ?_
      rw [hi] at hpolled
      cases hpolled
  envSet s c p v h hp _ :=
    polledQueuesEmpty_setChip h hp fun _ => (sameShared_extWrite p v (s.chip c)).qcnt
  envWake s c h hp := polledQueuesEmpty_setChip h hp fun _ => rfl
  reset s _ _ := fun c _ => reset_qcnt s c

/-- Settles O51: every atomic step leaves a polled chip's count, or resets it. -/
theorem stepKeepsPolledQueueEmpty : Obligations.StepKeepsPolledQueueEmpty :=
  step_keeps_atomicInvariant atomicInvariant_polledQueuesEmpty

end Sys2Proof.Proofs
end

section
/-! ## The frame of GET_INT and WAIT_INT (R202, R210, R211)

`EventFrame` of a run is put together from that of its parts: a service, a POP, a join, a leave. -/

namespace Sys2Proof.Proofs

open Sys2Proof.Machine Sys2Proof.Laws Sys2Proof.Safety

/-- Command `i` of a chip in the given mode makes `a` of the chip `b`: in IRQ-driven mode the page, the
enables and the latches are the same, in polled mode the queue, and the waiter sets after GET_INT. -/
def EventFrame (irqMode : Bool) (i : Instr) (a b : Chip) : Prop :=
  ∃ pg en l qo qc wa wo n, a =
      { b with
        page := pg, enab := en, intId := l, qout := qo, qcnt := qc, waiters := wa, woken := wo,
        draws := n } ∧
    (irqMode = true → pg = b.page ∧ en = b.enab ∧ l = b.intId) ∧
    (irqMode = false → qo = b.qout ∧ qc = b.qcnt) ∧
    (∀ c, i = .getInt c → wa = b.waiters ∧ wo = b.woken)

section
variable {m : Bool} {i : Instr} {a b d : Chip}

theorem EventFrame.refl (m : Bool) (i : Instr) (ch : Chip) : EventFrame m i ch ch :=
  ⟨_, _, _, _, _, _, _, _, rfl, fun _ => ⟨rfl, rfl, rfl⟩, fun _ => ⟨rfl, rfl⟩, fun _ _ => ⟨rfl, rfl⟩⟩

theorem EventFrame.trans (h : EventFrame m i a b) (h' : EventFrame m i b d) : EventFrame m i a d := by
  obtain ⟨_, _, _, _, _, _, _, _, rfl, hwin, hqueue, hsets⟩ := h
  obtain ⟨_, _, _, _, _, _, _, _, rfl, hwin', hqueue', hsets'⟩ := h'
  refine ⟨_, _, _, _, _, _, _, _, rfl, fun hm => ?_, fun hm => ?_, fun c hi => ?_⟩
  · obtain ⟨hpg, hen, hl⟩ := hwin hm
    obtain ⟨hpg', hen', hl'⟩ := hwin' hm
    exact ⟨hpg.trans hpg', hen.trans hen', hl.trans hl'⟩
  · exact ⟨(hqueue hm).1.trans (hqueue' hm).1, (hqueue hm).2.trans (hqueue' hm).2⟩
  · exact ⟨(hsets c hi).1.trans (hsets' c hi).1, (hsets c hi).2.trans (hsets' c hi).2⟩

end

/-! ### The parts of a run -/

theorem popChip_eventFrame (i : Instr) (ch : Chip) : EventFrame true i (popChip ch) ch := by
  unfold popChip
  split
  · exact .refl true i ch
  · exact ⟨_, _, _, _, _, _, _, _, rfl, fun _ => ⟨rfl, rfl, rfl⟩, nofun, fun _ _ => ⟨rfl, rfl⟩⟩

theorem joinWaiters_eventFrame (m : Bool) (k c : Nat) (ch : Chip) :
    EventFrame m (.waitInt c) (joinWaiters k ch) ch :=
  ⟨_, _, _, _, _, _, _, _, rfl, fun _ => ⟨rfl, rfl, rfl⟩, fun _ => ⟨rfl, rfl⟩, nofun⟩

theorem leaveWaiters_eventFrame (m : Bool) (k c : Nat) (ch : Chip) :
    EventFrame m (.waitInt c) (leaveWaiters k ch) ch :=
  ⟨_, _, _, _, _, _, _, _, rfl, fun _ => ⟨rfl, rfl, rfl⟩, fun _ => ⟨rfl, rfl⟩, nofun⟩

/-- What a service may leave of a chip: the page, the enables and the latches are its own. -/
theorem service_eventFrame (i : Instr) (pg : BitVec 2) (en l : Vector Byte 3) (n : Nat) (ch : Chip) :
    EventFrame false i { ch with page := pg, enab := en, intId := l, draws := n } ch :=
  ⟨_, _, _, _, _, _, _, _, rfl, nofun, fun _ => ⟨rfl, rfl⟩, fun _ _ => ⟨rfl, rfl⟩⟩

/-! ### SERVICE, whatever is latched -/

theorem exists_firstLatched {ch : Chip} (h : ¬NothingLatched ch) : ∃ i, FirstLatched ch i := by
  by_cases h0 : bankRead ch.intId 0 0 = 0
  · by_cases h1 : bankRead ch.intId 1 0 = 0
    · have h2 : bankRead ch.intId 2 0 ≠ 0 := fun h2 =>
        h fun i hi => by interval_cases i <;> assumption
      exact ⟨2, le_rfl, h2, fun j hj => by interval_cases j <;> assumption⟩
    · exact ⟨1, by decide, h1, fun j hj => by interval_cases j; exact h0⟩
  · exact ⟨0, by decide, h0, fun j hj => absurd hj (Nat.not_lt_zero j)⟩

section
variable {p : Program} {ch : Chip}

/-- SERVICE of a chip with a latch set: POLL finds a bit, which CLEARPULSE pulses, enabled or not
(R183, R185). -/
theorem reaches_service_found {c base i : Nat} (hp : HoldsService p c base) (tmp : Temps)
    (h : FirstLatched ch i) :
    ∃ n tmp' b, n ≤ 15 ∧ Reaches p n base tmp ch (base + 15) tmp'
      (pulsed b { ch with page := Config.idlePage, draws := ch.draws + 1 }) := by
  obtain ⟨n, tmp₁, hn, hr, hpoll⟩ := reaches_poll (p := p) (base := base) (tmp := tmp) h
    fun d tmp' ch' hd => (hp d tmp' ch' (by omega)).trans (if_pos (by omega))
  have hport : portOf tmp₁.r.toNat ≤ 2 := by
    rw [hr]
    exact portOf_le (foundIn_range _ h.le).2
  obtain ⟨t, hpulse⟩ := reaches_clearPulse (p := p) (c := c) (base := base + 8) (tmp := tmp₁)
    (ch := { ch with page := Config.idlePage, draws := ch.draws + 1 }) hport fun d t ch' hd => by
      rw [Nat.add_assoc, hp (8 + d) _ _ (by omega), service, if_neg (by omega)]
      congr 1
      omega
  exact ⟨n + 7, { tmp₁ with t := t }, _, by omega, hpoll.trans hpulse⟩

/-- SERVICE of any chip ends behind its positions within 15 steps and touches nothing but the page, the
enables and the latches. -/
theorem reaches_service {c base : Nat} (hp : HoldsService p c base) (tmp : Temps) (ch : Chip) :
    ∃ n tmp' pg en l d, n ≤ 15 ∧ Reaches p n base tmp ch (base + 15) tmp'
      { ch with page := pg, enab := en, intId := l, draws := d } := by
  by_cases h : NothingLatched ch
  · obtain ⟨tmp', -, hserve⟩ := reaches_service_none hp tmp h
    exact ⟨1, tmp', _, _, _, _, by decide, hserve⟩
  · obtain ⟨i, hi⟩ := exists_firstLatched h
    obtain ⟨n, tmp', b, hn, hserve⟩ := reaches_service_found hp tmp hi
    exact ⟨n, tmp', _, _, _, _, hn, hserve⟩

/-- A service that ends the command answers, whatever is latched (R210, R211). -/
theorem AnswersService.runProgram_free {me : Holder} {c u f : Nat} (hp : AnswersService p me c u)
    (tmp : Temps) (hw : ch.wlock = none) (hf : 16 < f) :
    ∃ v pg en l d, runProgram p f u tmp ch =
      .answered .ok v { ch with page := pg, enab := en, intId := l, draws := d } := by
  obtain ⟨n, tmp', pg, en, l, d, hn, hserve⟩ :=
    reaches_service hp.serves tmp { ch with wlock := some me }
  exact ⟨_, pg, en, l, d, runProgram_window (hp.acquires _ _) hw hserve (hp.releases _ _) hw (by omega)⟩

end

/-! ### The runs -/

/-- The chip as the agent leaves it, in its answer or before its wait. -/
def chipLeft : Progress → Chip
  | .waiting _ _ ch => ch
  | .answered _ _ ch => ch

theorem settle_chip (k : Nat) (w : CmdWord) {c : Nat} (p : Progress) {s : State}
    (hp : s.present c = true) : (settle k w c p s).chip c = chipLeft p := by
  cases p with
  | waiting u tmp ch => exact chip_setChip_present s c ch hp
  | answered st v ch => exact chip_setChip_present s c ch hp

/-- The run of command `i` of consumer `k` alone, from its first step on, keeps the frame. -/
def RunsInFrame (k : Nat) (m : Bool) (i : Instr) (ch : Chip) : Prop :=
  EventFrame m i (chipLeft (runProgram (programOf k m i) longestProgram 1 {} ch)) ch

theorem eventFrame_of_run {m : Bool} {i : Instr} {p : Program} {f u : Nat} {tmp : Temps}
    {ch ch' : Chip} {r : Progress} (hrun : runProgram p f u tmp ch = r)
    (h : EventFrame m i (chipLeft r) ch') :
    EventFrame m i (chipLeft (runProgram p f u tmp ch)) ch' := hrun ▸ h

section
variable (k c : Nat) {ch : Chip}

/-- A run whose first step is not enabled leaves the chip. -/
theorem runsInFrame_of_wait {m : Bool} {i : Instr} (h : programOf k m i 1 {} ch = .wait) :
    RunsInFrame k m i ch := eventFrame_of_run (runProgram_wait _ _ _ _ _ h) (.refl m i ch)

theorem getPolled_runsInFrame (ch : Chip) : RunsInFrame k false (.getInt c) ch := by
  by_cases hw : ch.wlock = none
  · obtain ⟨v, pg, en, l, d, hrun⟩ :=
      (progGetPolled_answersService (.consumer k) c).runProgram_free {} hw (f := longestProgram)
        (by decide)
    exact eventFrame_of_run hrun (service_eventFrame _ pg en l d ch)
  · exact runsInFrame_of_wait k (if_neg hw)

theorem getBuffered_runsInFrame (ch : Chip) : RunsInFrame k true (.getInt c) ch := by
  by_cases hq : ch.qlock = none
  · exact eventFrame_of_run (runProgram_getBuffered _ hq) (popChip_eventFrame _ ch)
  · exact runsInFrame_of_wait k (if_neg hq)

/-- From step 4 a buffered WAIT_INT waits, or, released already, leaves and pops (R211). -/
theorem waitBuffered_released_eventFrame {f : Nat} (tmp : Temps) (hq : ch.qlock = none)
    (hf : 2 < f) :
    EventFrame true (.waitInt c) (chipLeft (runProgram (progWaitBuffered k c) f 4 tmp ch)) ch := by
  by_cases h : k ∈ ch.woken ∨ ch.qcnt ≠ 0
  · obtain ⟨g, rfl⟩ : ∃ g, f = g + 1 := ⟨f - 1, by omega⟩
    rw [runProgram_goto _ _ _ _ _ _ _ _ (progWaitBuffered_released tmp h hq),
      runProgram_waitBuffered_leaves tmp hq (by omega)]
    exact (popChip_eventFrame _ _).trans (leaveWaiters_eventFrame true k c ch)
  · exact eventFrame_of_run (runProgram_wait _ _ _ _ _ (if_neg h)) (.refl _ _ ch)

/-- The first pop of a buffered WAIT_INT, and its join where that finds nothing, under the queue lock. -/
theorem reaches_waitBuffered_popped (hq : ch.qlock = none) :
    ∃ ch', ch'.qlock = none ∧ EventFrame true (.waitInt c) ch' ch ∧
      Reaches (progWaitBuffered k c) 2 1 {} ch 3 { r := popValue c ch }
        { ch' with qlock := some (.consumer k) } := by
  have hfree := (popChip_locks ch).2.1.trans hq
  have hpop := popChip_eventFrame (.waitInt c) ch
  have hacq := progWaitBuffered_acquires (k := k) (c := c) {} hq
  by_cases h0 : popValue c ch = 0
  · refine ⟨joinWaiters k (popChip ch), hfree, (joinWaiters_eventFrame true k c _).trans hpop,
      .step hacq (.single ?_)⟩
    rw [progWaitBuffered, popChip_qlock]
    exact congrArg (Micro.goto 3 _) (if_pos h0)
  · refine ⟨popChip ch, hfree, hpop, .step hacq (.single ?_)⟩
    rw [progWaitBuffered, popChip_qlock]
    exact congrArg (Micro.goto 3 _) (if_neg h0)

/-- A buffered WAIT_INT pops, and answers what it finds or goes on to wait (R211). -/
theorem waitBuffered_runsInFrame (ch : Chip) : RunsInFrame k true (.waitInt c) ch := by
  by_cases hq : ch.qlock = none
  · obtain ⟨ch', hfree, hframe, hpop⟩ := reaches_waitBuffered_popped k c hq
    have hch' : { ch' with qlock := none } = ch' := by simp only [← hfree]
    by_cases h0 : popValue c ch = 0
    · have hblocks := progWaitBuffered_blocks (c := c) (tmp := { r := popValue c ch })
        (ch := { ch' with qlock := some (.consumer k) }) rfl h0
      rw [hch'] at hblocks
      have hrun := runProgram_reaches (hpop.trans (.single hblocks)) 37
      exact eventFrame_of_run hrun
        ((waitBuffered_released_eventFrame k c _ hfree (by decide)).trans hframe)
    · have hanswers := progWaitBuffered_answers (c := c) (tmp := { r := popValue c ch })
        (ch := { ch' with qlock := some (.consumer k) }) rfl h0
      rw [hch'] at hanswers
      exact eventFrame_of_run (runProgram_reaches_respond hpop (by decide) hanswers) hframe
  · exact runsInFrame_of_wait k (if_neg hq)

/-- From step 18 a polled WAIT_INT joins, and then waits, or, released already, leaves and services once
more (R211). -/
theorem waitPolled_joins_eventFrame {f : Nat} (tmp : Temps) (hw : ch.wlock = none)
    (hf : 22 < f) :
    EventFrame false (.waitInt c) (chipLeft (runProgram (progWaitPolled k c) f 18 tmp ch)) ch := by
  by_cases hq : ch.qlock = none
  · obtain ⟨g, rfl⟩ : ∃ g, f = 3 + (3 + g) := ⟨f - 6, by omega⟩
    have hjoined := joinWaiters_eventFrame false k c ch
    rw [runProgram_reaches (reaches_waitPolled_joined tmp hq)]
    by_cases hk : k ∈ ch.woken
    · have hleft : Reaches (progWaitPolled k c) 3 21 tmp (joinWaiters k ch) 24 tmp
          (leaveWaiters k (joinWaiters k ch)) :=
        .step (progWaitPolled_woken tmp hk hq) (reaches_waitPolled_left tmp hq)
      obtain ⟨v, pg, en, l, d, hrun⟩ := (progWaitPolled_answersService k c).runProgram_free
        (ch := leaveWaiters k (joinWaiters k ch)) (f := g) tmp hw (by omega)
      rw [runProgram_reaches hleft, hrun]
      exact (service_eventFrame _ pg en l d _).trans
        ((leaveWaiters_eventFrame false k c _).trans hjoined)
    · exact eventFrame_of_run (runProgram_wait _ _ _ _ _ (progWaitPolled_unwoken tmp hk)) hjoined
  · exact eventFrame_of_run (runProgram_wait _ _ _ _ _ (progWaitPolled_queueHeld tmp hq)) (.refl _ _ ch)

/-- The first service of a polled WAIT_INT, under the window. -/
theorem reaches_waitPolled_served (hw : ch.wlock = none) :
    ∃ n tmp ch', n ≤ 15 ∧ ch'.wlock = none ∧ EventFrame false (.waitInt c) ch' ch ∧
      Reaches (progWaitPolled k c) (n + 1) 1 {} ch 17 tmp { ch' with wlock := some (.consumer k) } := by
  obtain ⟨n, tmp, pg, en, l, d, hn, hserve⟩ := reaches_service
    (progWaitPolled_holdsService k c) {} { ch with wlock := some (.consumer k) }
  exact ⟨n, tmp, { ch with page := pg, enab := en, intId := l, draws := d }, hn, hw,
    service_eventFrame _ pg en l d ch, .step (progWaitPolled_acquires {} hw) hserve⟩

/-- A polled WAIT_INT services, and answers what it finds or goes on to join (R211). -/
theorem waitPolled_runsInFrame (ch : Chip) : RunsInFrame k false (.waitInt c) ch := by
  by_cases hw : ch.wlock = none
  · obtain ⟨n, tmp, ch', hn, hfree, hframe, hserve⟩ := reaches_waitPolled_served k c hw
    have hch' : { ch' with wlock := none } = ch' := by simp only [← hfree]
    by_cases h0 : tmp.r = 0
    · have hmissed := progWaitPolled_missed (c := c) (ch := { ch' with wlock := some (.consumer k) })
        rfl h0
      rw [hch'] at hmissed
      have hrun := runProgram_reaches (hserve.trans (.single hmissed)) (38 - n)
      rw [show n + 1 + 1 + (38 - n) = longestProgram by unfold longestProgram; omega] at hrun
      exact eventFrame_of_run hrun
        ((waitPolled_joins_eventFrame k c tmp hfree (by omega)).trans hframe)
    · have hfound := progWaitPolled_found (c := c) (ch := { ch' with wlock := some (.consumer k) })
        rfl h0
      rw [hch'] at hfound
      exact eventFrame_of_run
        (runProgram_reaches_respond hserve (by unfold longestProgram; omega) hfound) hframe
  · exact runsInFrame_of_wait k (if_neg hw)

end

theorem runsInFrame (k : Nat) (m : Bool) {c : Nat} {i : Instr} (h : i = .getInt c ∨ i = .waitInt c)
    (ch : Chip) : RunsInFrame k m i ch := by
  rcases h with rfl | rfl <;> cases m
  · exact getPolled_runsInFrame k c ch
  · exact getBuffered_runsInFrame k c ch
  · exact waitPolled_runsInFrame k c ch
  · exact waitBuffered_runsInFrame k c ch

/-- Settles O59: the command is turned away, or answered with a fault, or its run keeps the frame. -/
theorem eventCommandsFrame : Obligations.EventCommandsFrame := by
  intro s t c i hi ht
  have hc : i.chipField = c := by rcases hi with rfl | rfl <;> rfl
  suffices hframe : EventFrame (s.irqMode c) i (t.chip c) (s.chip c) by
    obtain ⟨pg, en, l, qo, qc, wa, wo, n, hch, hwin, hqueue, hsets⟩ := hframe
    exact ⟨⟨pg, en, l, qo, qc, wa, wo, n, hch, hwin, hqueue, hsets c⟩, fun a => by rw [hch]⟩
  rcases exec_cases i s with ⟨-, he⟩ | ⟨-, st, -, he⟩ | ⟨-, hok, he⟩ <;> rw [he] at ht <;> cases ht
  · exact .refl _ i _
  · obtain ⟨hp, -⟩ := (issueFault_none i s).mp hok
    rw [hc] at hp ⊢
    rw [settle_chip _ _ _ hp]
    exact runsInFrame s.cur _ hi _

end Sys2Proof.Proofs
end

section
/-! ## The Port Lock Mechanism: LOCK_PORT, UNLOCK_PORT (R240 to R242)

Both commands read offset 7 and write it back, with one of the six lock bits changed and the page as read;
so both are of the shape `WorksInWindow`, and they differ in the function they apply to the lock bits. -/

namespace Sys2Proof.Proofs

open Sys2Proof.Machine Sys2Proof.Laws

/-! ### The page/lock byte (R28, R29) -/

/-- The mask of a port's lock bit reaches the low six bits of the byte only. -/
theorem lockMask_eq_append {p : Nat} (hp : p ≤ 5) : 1#8 <<< p = 0#2 ++ 1#6 <<< p := by
  interval_cases p <;> rfl

theorem pageLock_or_lockMask {p : Nat} (hp : p ≤ 5) (pg : BitVec 2) (l : BitVec 6) :
    (pg ++ l : Byte) ||| 1#8 <<< p = pg ++ (l ||| 1#6 <<< p) := by
  rw [lockMask_eq_append hp, BitVec.or_append, BitVec.or_zero]

theorem pageLock_and_not_lockMask {p : Nat} (hp : p ≤ 5) (pg : BitVec 2) (l : BitVec 6) :
    (pg ++ l : Byte) &&& ~~~(1#8 <<< p) = pg ++ (l &&& ~~~(1#6 <<< p)) := by
  rw [lockMask_eq_append hp, BitVec.not_append, BitVec.and_append, BitVec.not_zero, BitVec.and_allOnes]

/-! ### What the commands make of the chip -/

/-- The chip with `f` applied to its lock bits. -/
def relocked (f : BitVec 6 → BitVec 6) (ch : Chip) : Chip := { ch with lock := f ch.lock }

/-- A read of offset 7 and a write of it that keeps the page of the byte read change the lock bits alone. -/
theorem reaches_relocked {q : Program} {c u n n' : Nat} {tmp : Temps} {ch : Chip} {byte : Byte → Byte}
    {f : BitVec 6 → BitVec 6} (hr : q u tmp ch = readTo c 7 n tmp ch)
    (hw : ∀ t, q n { tmp with t := t } ch = writeFrom 7 (byte t) n' { tmp with t := t } ch)
    (hbyte : ∀ (pg : BitVec 2) l, byte (pg ++ l) = pg ++ f l) :
    ∃ t, Reaches q 2 u tmp ch n' { tmp with t := t } (relocked f ch) := by
  have hwrite : ioWrite 7 (byte (ch.page ++ ch.lock)) ch = relocked f ch := by
    rw [hbyte, ioWrite_pageLock, pageLock_page, pageLock_lock, relocked]
  refine ⟨ch.page ++ ch.lock, .step hr (.single ((hw _).trans ?_))⟩
  rw [writeFrom, ioRead_pageLock, hwrite]

section
variable (me : Holder) (c : Nat) {p : Nat}

theorem progLockPort_works (hp : p ≤ 5) :
    WorksInWindow (progLockPort me c p) me 2 (relocked (· ||| 1#6 <<< p)) where
  acquires _ _ := rfl
  releases _ _ := rfl
  wlock _ _ := rfl
  short := by decide
  works _ _ := reaches_relocked rfl (fun _ => rfl) (pageLock_or_lockMask hp)

theorem progUnlockPort_works (hp : p ≤ 5) :
    WorksInWindow (progUnlockPort me c p) me 2 (relocked (· &&& ~~~(1#6 <<< p))) where
  acquires _ _ := rfl
  releases _ _ := rfl
  wlock _ _ := rfl
  short := by decide
  works _ _ := reaches_relocked rfl (fun _ => rfl) (pageLock_and_not_lockMask hp)

end

/-- Settles O22: the byte written back is the one read with the port's lock bit set. -/
theorem lockPortSetsBit : Obligations.LockPortSetsBit := fun _ c p hr hp hw =>
  exec_of_worksInWindow (i := .lockPort c p) (progLockPort_works _ c hp) hr (decide_eq_true hp) hw

/-- Settles O23: the byte written back is the one read with the port's lock bit cleared. -/
theorem unlockPortClearsBit : Obligations.UnlockPortClearsBit := fun _ c p hr hp hw =>
  exec_of_worksInWindow (i := .unlockPort c p) (progUnlockPort_works _ c hp) hr (decide_eq_true hp) hw

/-! ### The frame of the lock commands -/

section
variable {p q : Nat} (l : BitVec 6)

theorem getLsbD_or_lockMask_ne (h : q ≠ p) : (l ||| 1#6 <<< p).getLsbD q = l.getLsbD q := by
  rw [← BitVec.twoPow_eq, BitVec.getLsbD_or, BitVec.getLsbD_twoPow, decide_eq_false h.symm,
    Bool.and_false, Bool.or_false]

theorem getLsbD_and_not_lockMask_ne (h : q ≠ p) : (l &&& ~~~(1#6 <<< p)).getLsbD q = l.getLsbD q := by
  have hlt : l.getLsbD q = true → q < 6 := BitVec.lt_of_getLsbD
  rw [← BitVec.twoPow_eq, BitVec.getLsbD_and, BitVec.getLsbD_not, BitVec.getLsbD_twoPow,
    decide_eq_false h.symm]
  simpa using hlt

end

/-- The lock commands and what each makes of its chip: of the lock bits, only the port's may change. -/
theorem worksInWindow_of_lockCommand {c p : Nat} {i : Instr}
    (h : i = .lockPort c p ∨ i = .unlockPort c p) (k : Nat) (m : Bool) :
    i.chipField = c ∧ ∃ f : BitVec 6 → BitVec 6,
      (indexOk i = true → WorksInWindow (programOf k m i) (.consumer k) 2 (relocked f)) ∧
        ∀ l q, q ≠ p → (f l).getLsbD q = l.getLsbD q := by
  rcases h with rfl | rfl
  · exact ⟨rfl, _, fun hx => progLockPort_works _ c (of_decide_eq_true hx),
      fun l _ => getLsbD_or_lockMask_ne l⟩
  · exact ⟨rfl, _, fun hx => progUnlockPort_works _ c (of_decide_eq_true hx),
      fun l _ => getLsbD_and_not_lockMask_ne l⟩

/-- Settles O60: each of the two commands leaves its chip as it was or with the port's lock bit changed. -/
theorem lockCommandsFrame : Obligations.LockCommandsFrame := by
  intro s t c p i hi ht
  obtain ⟨rfl, f, hworks, hbits⟩ := worksInWindow_of_lockCommand hi s.cur (s.irqMode i.chipField)
  rcases chip_of_exec_worksInWindow hworks ht with hch | hch <;> rw [hch]
  · exact ⟨⟨_, rfl, fun _ _ => rfl⟩, fun _ => rfl⟩
  · exact ⟨⟨_, rfl, hbits _⟩, fun _ => rfl⟩

end Sys2Proof.Proofs
end

section
/-! ## Faults of an issue, and the word placed at a command port (R7, R250 to R255, R268) -/

namespace Sys2Proof.Proofs

open Sys2Proof.Machine Sys2Proof.Laws Sys2Proof.Safety

/-! ### A command whose issue raises a fault (R252, R253) -/

/-- The micro-program of a faulting command never starts: the response is all there is (R250). -/
theorem exec_of_issueFault {i : Instr} {s : State} {st : Status} (hb : s.busy s.cur = false)
    (hi : issueFault i s = some st) : exec i s = .next (s.deliver s.cur st 0) := by
  simp [exec_eq_command, command, issueThen, hb, hi, raiseFault]

/-- The three causes of R252: no slot, no base address, resources not claimed. -/
theorem present_eq_false {s : State} {c : Nat}
    (h : c ∉ [1, 2, 3, 4] ∨ (slotOf s.cfg c).base = 0 ∨ (slotOf s.cfg c).claimOk = false) :
    s.present c = false := by
  rcases h with hslot | hbase | hclaim
  · exact Bool.eq_false_iff.mpr (mt present_mem hslot)
  · simp [State.present, presentIn, hbase]
  · simp [State.present, presentIn, hclaim]

/-- Settles O8: presence is the first check of an issue, and reads the `chip` field alone. -/
theorem absentChipAnswersUnavailable : Obligations.AbsentChipAnswersUnavailable :=
  fun _ _ hb h => exec_of_issueFault hb (issueFault_absent (present_eq_false h))

theorem exec_of_indexOk_false {i : Instr} {s : State} (hr : Ready s i.chipField)
    (hx : indexOk i = false) : exec i s = .next (s.deliver s.cur .indexFault 0) :=
  exec_of_issueFault hr.1 (issueFault_index hr.2 hx)

/-- Settles O9: the index is above its range, or, where the range begins at 1, it may be 0. -/
theorem badIndexAnswersIndexFault : Obligations.BadIndexAnswersIndexFault := by
  intro s c x v hr faults
  have fault (i : Instr) (hc : i.chipField = c) (hx : indexOk i = false) : faults i :=
    exec_of_indexOk_false (hc ▸ hr) hx
  have above {n : Nat} (h : n < x) : decide (x ≤ n) = false := decide_eq_false (Nat.not_le.mpr h)
  have outside {n : Nat} (h : x = 0 ∨ n < x) : (decide (1 ≤ x) && decide (x ≤ n)) = false := by
    rcases h with rfl | h
    · rfl
    · rw [above h, Bool.and_false]
  exact ⟨fun h => ⟨fault _ rfl (above h), fault _ rfl (above h)⟩,
    fun h => ⟨fault _ rfl (outside h), fault _ rfl (outside h), fault _ rfl (outside h),
      fault _ rfl (outside h)⟩,
    fun h => ⟨fault _ rfl (outside h), fault _ rfl (outside h), fault _ rfl (outside h)⟩,
    fun h => fault _ rfl (above h),
    fun h => ⟨fault _ rfl (above h), fault _ rfl (above h)⟩⟩

/-! ### A word that decodes to no command (R251) -/

theorem reservedZero_eq_false_iff {w : CmdWord} :
    reservedZero w = false ↔ w.getLsbD 19 = true ∨ w.extractLsb' 14 2 ≠ 0 := by
  have h19 : w.extractLsb' 19 1 = BitVec.ofBool (w.getLsbD 19) := by
    simp [BitVec.eq_of_getLsbD_eq_iff]
  rw [reservedZero, h19]
  cases w.getLsbD 19 <;> simp

/-- A word of opcode `op` is illegal for one of R251's causes: what its format leaves unused is read off
the opcode. -/
theorem not_fieldsLegal_iff {w : CmdWord} {op : BitVec 4} (hop : opcodeOf w = op.toNat) :
    ¬FieldsLegal w ↔ op = 0 ∨ op = 15 ∨ reservedZero w = false ∨
      (op ≠ 2 ∧ op ≠ 4 ∧ op ≠ 7 ∧ dataOf w ≠ 0) ∨ ((op = 10 ∨ op = 11) ∧ indexOf w ≠ 0) := by
  have hlt := op.isLt
  simp only [FieldsLegal, hop, ← BitVec.toNat_inj (x := op), BitVec.reduceToNat, ne_eq]
  generalize op.toNat = n at hlt
  cases reservedZero w with
  | false => simp
  | true => interval_cases n <;> simp [imp_iff_not_or, or_comm]

theorem exists_decode_error_iff {w : CmdWord} : (∃ e, decode w = .error e) ↔ ¬FieldsLegal w := by
  rw [← exists_decode_ok_iff_fieldsLegal]
  cases decode w <;> simp

/-- Either move that presents a word turns it down where it decodes to no command. -/
theorem step_of_decode_error {s : State} {k : Nat} {w : CmdWord} {e : Illegal}
    {rest : List Config.Event} (hl : legalBoard s.cfg = true)
    (ha : s.agenda = .command k w :: rest ∨ s.agenda = .issue k w :: rest)
    (hw : decode w = .error e) : step s = rejectWord k { s with agenda := rest } := by
  rcases ha with ha | ha <;> rw [step_planned hl ha, fire, hw]

theorem rejectWord_of_free {s : State} {k : Nat} (hb : s.busy k = false) :
    rejectWord k s = .next (s.deliver k .illegal 0) := by
  simp [rejectWord, hb, raiseFault]

/-- Settles O7: a word that decodes to no command has fields that are not legal, and is turned down before
its `chip` field is looked at. -/
theorem illegalWordAnswersIllegal : Obligations.IllegalWordAnswersIllegal := by
  intro w op bad
  have hbad : bad ↔ ∃ e, decode w = .error e := by
    rw [exists_decode_error_iff, not_fieldsLegal_iff (op := op) rfl, reservedZero_eq_false_iff,
      or_assoc, ne_eq (indexOf w), indexOf_eq_zero]
    rfl
  refine ⟨hbad, fun s k rest h hl ha hb => ?_⟩
  obtain ⟨e, hw⟩ := hbad.mp h
  rw [step_of_decode_error hl ha hw]
  exact rejectWord_of_free (s := { s with agenda := rest }) hb

/-! ### A placed word (R255, R268, log entry 16) -/

theorem cellsLookup_eq_none {α : Type} {k : Nat} {l : List (Nat × α)} (h : ∀ e ∈ l, e.1 ≠ k) :
    cellsLookup k l = none := by
  induction l with
  | nil => rfl
  | cons e rest ih =>
    obtain ⟨hne, hrest⟩ := List.forall_mem_cons.mp h
    rw [cellsLookup, if_neg hne, ih hrest]

/-- The number that `freeConsumer` folds up is above where it starts and above every key. -/
theorem foldl_max_key {α : Type} (l : List (Nat × α)) (n : Nat) :
    n ≤ l.foldl (fun n e => max n (e.1 + 1)) n ∧
      ∀ e ∈ l, e.1 < l.foldl (fun n e => max n (e.1 + 1)) n := by
  induction l generalizing n with
  | nil => simp
  | cons e rest ih =>
    obtain ⟨hstart, hrest⟩ := ih (max n (e.1 + 1))
    rw [List.foldl_cons, List.forall_mem_cons]
    exact ⟨by omega, by omega, hrest⟩

theorem freeConsumer_not_busy (s : State) : s.busy (freeConsumer s) = false := by
  unfold freeConsumer
  split
  case isTrue =>
    obtain ⟨-, hkeys⟩ := foldl_max_key s.inflight 0
    rw [State.busy, State.flight, cellsLookup_eq_none fun e he => (hkeys e he).ne, Option.isSome_none]
  case isFalse hb => exact Bool.eq_false_iff.mpr hb

theorem tableWord_toNat (w : CmdWord) : tableWord 24 w.toNat = some w := by
  rw [tableWord, Nat.mod_eq_of_lt w.isLt, if_pos w.isLt, BitVec.ofNat_toNat, BitVec.setWidth_eq]

theorem withFetchWord_toNat (s : State) (w : CmdWord) :
    s.withFetchWord 24 w.toNat = { s with agenda := .command (freeConsumer s) w :: s.agenda } := by
  rw [State.withFetchWord, tableWord_toNat]

/-- Settles O6: the placed word is the next planned move, of a consumer that is free. -/
theorem placedWordRunsNext : Obligations.PlacedWordRunsNext := by
  intro s w i hl hw
  refine ⟨freeConsumer s, freeConsumer_not_busy s, ?_⟩
  rw [withFetchWord_toNat, step_planned (s := { s with agenda := _ :: s.agenda }) hl rfl, fire, hw]

end Sys2Proof.Proofs
end

section
/-! ## The reset move (R290, R292, R296, log entry 14) -/

namespace Sys2Proof.Proofs

open Sys2Proof.Machine Sys2Proof.Laws Sys2Proof.Safety

theorem quiescent_iff (s : State) : quiescent s = true ↔
    s.inflight = [] ∧ ∀ c, c ∈ slotNumbers → (s.chip c).iss.upc = 0 := by
  simp only [quiescent, Bool.and_eq_true, List.isEmpty_iff, List.all_eq_true, beq_iff_eq]

/-- Reset is enabled exactly while the block is quiescent (R290). -/
theorem envReset_of_quiescent {s : State} (h : quiescent s = true) : envReset s =
    .next { s with chips := #v[resetChip 1 s, resetChip 2 s, resetChip 3 s, resetChip 4 s] } :=
  if_pos h

theorem envReset_of_not_quiescent {s : State} (h : ¬quiescent s = true) :
    envReset s = .refused .resetNotQuiescent :=
  if_neg h

/-- Each slot's chip is reset from that slot's own levels and draw counter. -/
theorem chip_reset (s : State) {c : Nat} (hc : c ∈ slotNumbers) :
    State.chip { s with chips := #v[resetChip 1 s, resetChip 2 s, resetChip 3 s, resetChip 4 s] } c =
      resetChip c s := by
  simp only [slotNumbers, List.mem_cons, List.not_mem_nil, or_false] at hc
  rcases hc with rfl | rfl | rfl | rfl <;> rfl

/-- Settles O44: the move is `envReset`, guarded by quiescence, and every slot's chip after it is
`resetChip` of the chip before. -/
theorem resetMoveNeedsQuiescence : Obligations.ResetMoveNeedsQuiescence := by
  intro s rest hl ha
  rw [step_planned hl ha, fire]
  refine ⟨fun hin hiss => ?_, fun h => envReset_of_not_quiescent fun hq => ?_⟩
  · refine ⟨_, envReset_of_quiescent ((quiescent_iff _).mpr ⟨hin, hiss⟩), rfl, hin, rfl,
      fun c hc => ?_⟩
    rw [chip_reset _ hc]
    exact ⟨fun p => ⟨bankRead_replicate 6 p 0, bankRead_replicate 6 p 0⟩,
      fun i => ⟨bankRead_replicate 3 i 0, bankRead_replicate 3 i 0, bankRead_replicate 3 i 0⟩,
      rfl, rfl, rfl, rfl, rfl, rfl, rfl, rfl, rfl, rfl, rfl⟩
  · obtain ⟨hin, hiss⟩ := (quiescent_iff _).mp hq
    obtain hbusy | ⟨c, hc, hu⟩ := h
    · exact hbusy hin
    · exact hu (hiss c hc)

end Sys2Proof.Proofs
end
